-- ==== Sys2Proof/Word.lean ====
section
/-! DEFINITION. The word types of the block: every value the codec takes or gives and every chip register is one
byte (00_scope.md R8), a command word is 40 bits (R10), a register address travels as one byte and a bus device
address is 7 bits (R8). -/

namespace Sys2Proof

/-- R8 `DATA_W`: one byte, unsigned (R12). -/
abbrev Byte := BitVec 8

/-- R10, R70: a command word of 40 bits. -/
abbrev CmdWord := BitVec 40

/-- R8 `RADDR_W`: a chip register address is one byte. -/
abbrev RegAddr := BitVec 8

/-- R8, R43: a bus device address is 7 bits. -/
abbrev DevAddr := BitVec 7

end Sys2Proof
end

