-- ==== Sys2Proof/Config.lean ====
section
/-! DEFINITION. The fixed parameters of the block (00_scope.md R8) as definitions, and its open parameters (R9) with the
other values the spec leaves open as opaque constants: nothing in Lean can evaluate one, so a claim that holds,
holds whatever its value is. -/

namespace Sys2Proof

namespace Config

/-- R8 `DEV_ADDR`: the chip's bus address. -/
def devAddr : DevAddr := 0x68#7

/-- R8 `REG_SEC`. -/
def regSec : RegAddr := 0x00#8
/-- R8 `REG_MIN`. -/
def regMin : RegAddr := 0x01#8
/-- R8 `REG_HOUR`. -/
def regHour : RegAddr := 0x02#8
/-- R8 `REG_WDAY`. -/
def regWday : RegAddr := 0x03#8
/-- R8 `REG_DATE`: day-of-month. -/
def regDate : RegAddr := 0x04#8
/-- R8 `REG_MONTH`. -/
def regMonth : RegAddr := 0x05#8
/-- R8 `REG_YEAR`. -/
def regYear : RegAddr := 0x06#8

/-- R8 `READ_COUNT`: every read request asks for one byte; the width is that of `treq_len` (R68). -/
def readCount : BitVec 2 := 1#2

/-- R9 `ERR_W`: the hardware width of the transport's error values, left open by the spec (D18; log 9). -/
opaque errW : Nat

/-- R9 `BIN2BCD_OOR`: the result of `binaryToBCD(v)` for v ≥ 100, a function of its argument alone (D9; log 8). -/
opaque bin2bcdOor : Byte → Byte

/-- R9 `BCD2BIN_INVALID`: the result of `bcdToBinary(b)` when a nibble of b is 10..15, a function of its argument
alone (D10; log 8). -/
opaque bcd2binInvalid : Byte → Byte

/-- R66: the initial contents of the reference chip's registers, "a free input", and R42: a chip register's value is
unknown until the block writes it (log 6). -/
opaque chipInitial : RegAddr → Byte

end Config

/-- R9 `TErr`: the transport's error values, `ERR_W` bits wide, carried verbatim (R24). -/
abbrev TErr := BitVec Config.errW

/-- R9, R79: the type of the `speedClass` argument. DESIGN CHOICE: the spec gives it no width; the block never
interprets it (D17; log 9). -/
abbrev SpeedClass := Nat

namespace Config

/-- R9 `SPEED_CLASS`: the argument INIT passes to the transport's `configure` (D17; log 9). -/
opaque speedClass : SpeedClass

/-- R66 `E_NODEV`: the error the reference chip gives for another device address (log 9). -/
opaque eNodev : TErr

end Config

end Sys2Proof
end

