-- ==== Sys2Proof/Syntax.lean ====
section
/-! DEFINITION. The commands of the block as syntax: one constructor for each row of spec/opcode_table.json
(30_encoding.md R72), with the operands of R74 in the order of R82. -/

namespace Sys2Proof

/-- R15, R73: the hours format, one of three. The reserved tag 0b01 names no format. -/
inductive Fmt where
  /-- "24-hour", tag 0b00. -/
  | h24
  /-- "12H-AM", tag 0b10. -/
  | am
  /-- "12H-PM", tag 0b11. -/
  | pm
deriving DecidableEq, Repr

/-- R72: the eleven commands. Every operand byte is unsigned and unchecked (R71, R119). -/
inductive Instr where
  /-- R94 `BIN2BCD v`. -/
  | bin2bcd (v : Byte)
  /-- R95 `BCD2BIN b`. -/
  | bcd2bin (b : Byte)
  /-- R96 `ENCHOURS h, fmt`. -/
  | enchours (h : Byte) (fmt : Fmt)
  /-- R97 `DECHOURS b`. -/
  | dechours (b : Byte)
  /-- R98 `ENCSEC s`. -/
  | encsec (s : Byte)
  /-- R99 `DECSEC b`. -/
  | decsec (b : Byte)
  /-- R110 `INIT`. -/
  | init
  /-- R111 `SETTIME s, m, h, fmt`. -/
  | settime (s m h : Byte) (fmt : Fmt)
  /-- R112 `SETDATE d, w, mo, y`. -/
  | setdate (d w mo y : Byte)
  /-- R113 `GETTIME`. -/
  | gettime
  /-- R114 `GETDATE`. -/
  | getdate
deriving DecidableEq, Repr

end Sys2Proof
end

