-- ==== Sys2Proof/Machine/Operands.lean ====
section
/-! DEFINITION. The operand forms of a command: the fields of the 40-bit command word (30_encoding.md R70), the operand
assembly (R71), the format tag (R73) and the textual form (R82). -/

namespace Sys2Proof

namespace Machine

/-- R70 `OP`, bits 39:36. -/
def opField (w : CmdWord) : BitVec 4 := w.extractLsb' 36 4
/-- R70 `FMT`, bits 35:34. -/
def fmtField (w : CmdWord) : BitVec 2 := w.extractLsb' 34 2
/-- R70 `RSV`, bits 33:32. -/
def rsvField (w : CmdWord) : BitVec 2 := w.extractLsb' 32 2
/-- R70 `OPD3`, bits 31:24. -/
def opd3 (w : CmdWord) : Byte := w.extractLsb' 24 8
/-- R70 `OPD2`, bits 23:16. -/
def opd2 (w : CmdWord) : Byte := w.extractLsb' 16 8
/-- R70 `OPD1`, bits 15:8. -/
def opd1 (w : CmdWord) : Byte := w.extractLsb' 8 8
/-- R70 `OPD0`, bits 7:0. -/
def opd0 (w : CmdWord) : Byte := w.extractLsb' 0 8

/-- R70: the command word `{OP, FMT, 0b00, OPD3, OPD2, OPD1, OPD0}`, each field at its weight. -/
def assembleWord (op : BitVec 4) (fmt : BitVec 2) (d3 d2 d1 d0 : Byte) : CmdWord :=
  BitVec.ofNat 40 (2 ^ 36 * op.toNat + 2 ^ 34 * fmt.toNat + 2 ^ 24 * d3.toNat + 2 ^ 16 * d2.toNat + 2 ^ 8 * d1.toNat
    + d0.toNat)

/-- R73: the format tag of a format. -/
def fmtTag : Fmt → BitVec 2
  | .h24 => 0b00#2
  | .am => 0b10#2
  | .pm => 0b11#2

/-- R73: the format a tag names; the reserved tag 0b01 names none. -/
def fmtOfTag (t : BitVec 2) : Option Fmt :=
  match t.toNat with
  | 0b00 => some .h24
  | 0b10 => some .am
  | 0b11 => some .pm
  | _ => none

/-- R82: the name of a format in the textual form. -/
def fmtName : Fmt → String
  | .h24 => "H24"
  | .am => "AM"
  | .pm => "PM"

/-- R72: the mnemonic of a command, as spec/opcode_table.json spells it. -/
def mnemonic : Instr → String
  | .bin2bcd _ => "BIN2BCD"
  | .bcd2bin _ => "BCD2BIN"
  | .enchours _ _ => "ENCHOURS"
  | .dechours _ => "DECHOURS"
  | .encsec _ => "ENCSEC"
  | .decsec _ => "DECSEC"
  | .init => "INIT"
  | .settime _ _ _ _ => "SETTIME"
  | .setdate _ _ _ _ => "SETDATE"
  | .gettime => "GETTIME"
  | .getdate => "GETDATE"

/-- R82: an operand as a decimal number. -/
def operandText (b : Byte) : String := toString b.toNat

/-- R82: the operands of a command in the order of the textual form. -/
def operandTexts : Instr → List String
  | .bin2bcd v => [operandText v]
  | .bcd2bin b => [operandText b]
  | .enchours h f => [operandText h, fmtName f]
  | .dechours b => [operandText b]
  | .encsec s => [operandText s]
  | .decsec b => [operandText b]
  | .init => []
  | .settime s m h f => [operandText s, operandText m, operandText h, fmtName f]
  | .setdate d w mo y => [operandText d, operandText w, operandText mo, operandText y]
  | .gettime => []
  | .getdate => []

/-- R82: the textual form, the mnemonic followed by its operands separated by commas. -/
def asmText (i : Instr) : String :=
  match operandTexts i with
  | [] => mnemonic i
  | ops => mnemonic i ++ " " ++ String.intercalate ", " ops

end Machine

end Sys2Proof
end

