-- ==== Sys2Proof/WellFormed.lean ====
section
/-! DEFINITION. The legality check of a command word, written from 30_encoding.md R75 on the word itself and apart
from the decoder. A term of `Instr` is well formed by its types (a byte is 8 bits, a format one of three), so the
check stands where the spec puts it, on the word a caller presents. -/

namespace Sys2Proof

open Machine

/-- R75, first line: the opcode is one of the eleven of R72. -/
def opcodeAssigned (w : CmdWord) : Bool :=
  [0x1#4, 0x2#4, 0x3#4, 0x4#4, 0x5#4, 0x6#4, 0x8#4, 0x9#4, 0xA#4, 0xB#4, 0xC#4].contains (opField w)

/-- R75, second line: `RSV` is zero. -/
def reservedZero (w : CmdWord) : Bool := rsvField w == 0b00#2

/-- R75, third line: the format tag is one of three on ENCHOURS and SETTIME, and zero on every other command. -/
def formatLegal (w : CmdWord) : Bool :=
  if opField w == 0x3#4 || opField w == 0x9#4 then [0b00#2, 0b10#2, 0b11#2].contains (fmtField w)
  else fmtField w == 0b00#2

/-- R74: whether the operand byte `k` (0 to 3) is marked `0` for the opcode. -/
def operandUnused (op : BitVec 4) (k : Nat) : Bool :=
  match op.toNat with
  | 0x1 | 0x2 | 0x3 | 0x4 | 0x5 | 0x6 => k != 0
  | 0x9 => k == 3
  | 0xA => false
  | _ => true

/-- R75, fourth line: every operand field marked `0` for the opcode in R74 is 0x00. -/
def unusedZero (w : CmdWord) : Bool :=
  (!operandUnused (opField w) 0 || opd0 w == 0x00#8) && (!operandUnused (opField w) 1 || opd1 w == 0x00#8)
    && (!operandUnused (opField w) 2 || opd2 w == 0x00#8) && (!operandUnused (opField w) 3 || opd3 w == 0x00#8)

/-- R75: `legal(CMD)`. -/
def legalWord (w : CmdWord) : Bool := opcodeAssigned w && reservedZero w && formatLegal w && unusedZero w

end Sys2Proof
end

