-- ==== Sys2Proof/Decode.lean ====
section
/-! DEFINITION. The decoder of command words, total and rejecting by name (30_encoding.md R72 to R76), and after it the
encoder, written from the same tables (R72, R73, R74, R82). -/

namespace Sys2Proof

open Machine

/-- R76: why a command word is illegal. All reasons give the one status ILLEGAL_COMMAND (R126). -/
inductive Illegal where
  /-- R76: opcode 0x0, 0x7, 0xD, 0xE or 0xF. -/
  | reservedOpcode
  /-- R76: `RSV` is not 0b00. -/
  | reservedBits
  /-- R76: the format tag is 0b01, or nonzero on a command that has no format. -/
  | formatTag
  /-- R76: an operand byte the command does not use is not zero. -/
  | unusedOperand
deriving DecidableEq, Repr

/-- R74: the commands with one operand byte, `OPD0`, and no format. -/
def decodeByte (w : CmdWord) (mk : Byte → Instr) : Except Illegal Instr :=
  if fmtField w ≠ 0b00#2 then .error .formatTag
  else if opd3 w ≠ 0x00#8 ∨ opd2 w ≠ 0x00#8 ∨ opd1 w ≠ 0x00#8 then .error .unusedOperand
  else .ok (mk (opd0 w))

/-- R74: the commands with no operand. -/
def decodePlain (w : CmdWord) (i : Instr) : Except Illegal Instr :=
  if fmtField w ≠ 0b00#2 then .error .formatTag
  else if opd3 w ≠ 0x00#8 ∨ opd2 w ≠ 0x00#8 ∨ opd1 w ≠ 0x00#8 ∨ opd0 w ≠ 0x00#8 then .error .unusedOperand
  else .ok i

/-- R75, third line: the reserved format tag is illegal; with any other the decoding goes on. -/
def withFormat (f : Option Fmt) (k : Fmt → Except Illegal Instr) : Except Illegal Instr :=
  match f with
  | none => .error .formatTag
  | some f => k f

/-- R74: ENCHOURS, hours in `OPD0` and a format. -/
def decodeEnchours (w : CmdWord) : Except Illegal Instr :=
  withFormat (fmtOfTag (fmtField w)) fun f =>
    if opd3 w ≠ 0x00#8 ∨ opd2 w ≠ 0x00#8 ∨ opd1 w ≠ 0x00#8 then .error .unusedOperand
    else .ok (.enchours (opd0 w) f)

/-- R74: SETTIME, hours, minutes and seconds in `OPD2` to `OPD0` and a format. -/
def decodeSettime (w : CmdWord) : Except Illegal Instr :=
  withFormat (fmtOfTag (fmtField w)) fun f =>
    if opd3 w ≠ 0x00#8 then .error .unusedOperand else .ok (.settime (opd0 w) (opd1 w) (opd2 w) f)

/-- R74: SETDATE, year, month, weekday and day-of-month in `OPD3` to `OPD0`. -/
def decodeSetdate (w : CmdWord) : Except Illegal Instr :=
  if fmtField w ≠ 0b00#2 then .error .formatTag else .ok (.setdate (opd0 w) (opd1 w) (opd2 w) (opd3 w))

/-- R72, R75: the command a word stands for, or why it stands for none. -/
def decode (w : CmdWord) : Except Illegal Instr :=
  if rsvField w ≠ 0b00#2 then .error .reservedBits
  else
    match (opField w).toNat with
    | 0x1 => decodeByte w .bin2bcd
    | 0x2 => decodeByte w .bcd2bin
    | 0x3 => decodeEnchours w
    | 0x4 => decodeByte w .dechours
    | 0x5 => decodeByte w .encsec
    | 0x6 => decodeByte w .decsec
    | 0x8 => decodePlain w .init
    | 0x9 => decodeSettime w
    | 0xA => decodeSetdate w
    | 0xB => decodePlain w .gettime
    | 0xC => decodePlain w .getdate
    | _ => .error .reservedOpcode

/-- R72, R74, R82: the word of a command; every field the command does not name is zero. -/
def encode : Instr → CmdWord
  | .bin2bcd v => assembleWord 0x1#4 0b00#2 0x00#8 0x00#8 0x00#8 v
  | .bcd2bin b => assembleWord 0x2#4 0b00#2 0x00#8 0x00#8 0x00#8 b
  | .enchours h f => assembleWord 0x3#4 (fmtTag f) 0x00#8 0x00#8 0x00#8 h
  | .dechours b => assembleWord 0x4#4 0b00#2 0x00#8 0x00#8 0x00#8 b
  | .encsec s => assembleWord 0x5#4 0b00#2 0x00#8 0x00#8 0x00#8 s
  | .decsec b => assembleWord 0x6#4 0b00#2 0x00#8 0x00#8 0x00#8 b
  | .init => assembleWord 0x8#4 0b00#2 0x00#8 0x00#8 0x00#8 0x00#8
  | .settime s m h f => assembleWord 0x9#4 (fmtTag f) 0x00#8 h m s
  | .setdate d w mo y => assembleWord 0xA#4 0b00#2 y mo w d
  | .gettime => assembleWord 0xB#4 0b00#2 0x00#8 0x00#8 0x00#8 0x00#8
  | .getdate => assembleWord 0xC#4 0b00#2 0x00#8 0x00#8 0x00#8 0x00#8

/-- The command word that a table word of `nbits` bits stands for: the command port is 40 wires wide (R68), every row
of the table gives 40 bits, and a bit above `nbits` is zero. -/
def wordOfTable (nbits w : Nat) : CmdWord := BitVec.ofNat 40 (w % 2 ^ nbits)

/-- The command the decoder reads from a word of the opcode table. A number that does not fit the 40 wires of the
command port is no command word. -/
def decodeTableWord (nbits w : Nat) : Option Instr :=
  if w % 2 ^ nbits < 2 ^ 40 then (decode (wordOfTable nbits w)).toOption else none

end Sys2Proof
end

