-- ==== Sys2Proof/Machine/State.lean ====
section
/-! DEFINITION. The state of the block and of what it is connected to, as plain data: the block's working registers
(10_state.md R18 to R24), the chip's register file and register pointer behind the transport (R32, R37, 20_memory.md
R66), the inputs that are still to come on the ports and the record of what has left through them. -/

namespace Sys2Proof

namespace Machine

/-- R18: the sequencer state. -/
inductive Fsm where
  /-- 0b00: no command is held, the command port is ready. -/
  | idle
  /-- 0b01: a transport request is being presented. -/
  | issue
  /-- 0b10: a request was taken and its response is awaited. -/
  | wait
  /-- 0b11: the response word is being presented. -/
  | done
deriving DecidableEq, Repr

/-- R23: the status codes; 0b11 is never produced. -/
inductive Status where
  /-- 0b00, R116. -/
  | ok
  /-- 0b01, R117. -/
  | transportError
  /-- 0b10, R118. -/
  | illegalCommand
deriving DecidableEq, Repr

/-- R50: the four shapes of transport request. -/
inductive Request where
  /-- `CONFIGURE(dev, speed)`. -/
  | configure (dev : DevAddr) (speed : SpeedClass)
  /-- `WRITE(dev, [a, v])`: the single-register write (R108). -/
  | write (dev : DevAddr) (a : RegAddr) (v : Byte)
  /-- `WRITE(dev, [a])`: the pointer phase of a single-register read (R109). -/
  | pointer (dev : DevAddr) (a : RegAddr)
  /-- `READ(dev, 1)`: the data phase of a single-register read (R109). -/
  | read (dev : DevAddr)
deriving DecidableEq, Repr

/-- R80: the wires of the transport response port. -/
structure TResp where
  /-- `trsp_ok`. -/
  ok : Bool
  /-- `trsp_err`. -/
  err : TErr
  /-- `trsp_data`. -/
  data : Byte
deriving DecidableEq, Repr

/-- R64, R66: how the environment (transport and chip) answers one request. -/
inductive Answer where
  /-- The reference chip answers (R66). -/
  | refChip
  /-- The unconstrained oracle answers with these wires (R64); `landed` says whether a request answered with an error
  reached the chip all the same, which R51 leaves open. -/
  | oracle (r : TResp) (landed : Bool)
deriving DecidableEq, Repr

/-- R68, R137: the reset input at one coming step. -/
inductive RstLevel where
  /-- `rst` = 0. -/
  | low
  /-- `rst` = 1; `landed` says whether a request in flight reached the chip, which R138 leaves open. -/
  | high (landed : Bool)
deriving DecidableEq, Repr

/-- R77: the response a caller takes; a field that is ⊥ is `none` (R21). -/
structure Response where
  status : Option Status
  rfmt : Option Fmt
  res3 : Option Byte
  res2 : Option Byte
  res1 : Option Byte
  res0 : Option Byte
  err : Option TErr
deriving DecidableEq, Repr

/-- Chip registers by address: the cells that the block has written or that were given, in one canonical form. -/
abbrev Memory := List Host.Cell

/-- The canonical form: addresses strictly rising, each an address of the 8-bit register space (R44). A register that
is not listed reads as no value of its own (`Memory.read` gives `none`), so no cell can equal what an unlisted one
reads as. -/
abbrev Memory.wf (m : Memory) : Prop := m.Pairwise (fun x y => x.1 < y.1) ∧ ∀ c ∈ m, c.1 < 256

/-- R32, R37, R66: the chip behind the transport. -/
structure Chip where
  /-- R66 `REGS`. -/
  regs : Memory
  /-- R66 `PTR`, the internal register pointer; `none` is ⊥. -/
  ptr : Option RegAddr
deriving DecidableEq, Repr

/-- Everything the spec gives the machine. -/
structure State where
  /-- R18 `FSM`. -/
  fsm : Fsm
  /-- R19 `CMD`. -/
  cmd : CmdWord
  /-- R20 `STEP`. -/
  stepIx : BitVec 3
  /-- R21 `RES0`; `none` is ⊥. -/
  res0 : Option Byte
  /-- R21 `RES1`. -/
  res1 : Option Byte
  /-- R21 `RES2`. -/
  res2 : Option Byte
  /-- R21 `RES3`. -/
  res3 : Option Byte
  /-- R22 `RFMT`. -/
  rfmt : Option Fmt
  /-- R23 `STATUS`. -/
  status : Option Status
  /-- R24 `ERR`. -/
  err : Option TErr
  /-- R32 to R37: the chip's register file and register pointer. -/
  chip : Chip
  /-- R68, R100: the words the caller will present on the command port, in order (the model's own; log 14). -/
  cmds : List CmdWord
  /-- R64: the environment's answers to come, one for each request, in order (the model's own; log 4). -/
  answers : List Answer
  /-- R137: the reset input at the coming steps; low where the list ends (the model's own; log 12). -/
  rst : List RstLevel
  /-- R125, R134: the requests taken by the transport, oldest first (the model's own; log 11). -/
  issued : List Request
  /-- R134: the responses taken by the caller, oldest first (the model's own; log 11). -/
  delivered : List Response
deriving DecidableEq, Repr

/-- R41, R137: the block right after reset, with a chip of unknown contents, nothing on the ports and nothing
recorded. R41 leaves CMD and STEP unspecified: both are 0, DESIGN CHOICE (log 1). -/
def State.reset : State where
  fsm := .idle
  cmd := 0x0000000000#40
  stepIx := 0#3
  res0 := none
  res1 := none
  res2 := none
  res3 := none
  rfmt := none
  status := none
  err := none
  chip := ⟨[], none⟩
  cmds := []
  answers := []
  rst := []
  issued := []
  delivered := []

/-- Why the machine stops. Each is raised only in states that no run from reset reaches under R65's duties. -/
inductive Fault where
  /-- Raised by the reference chip on a READ with no pointer set, which R66 calls stuck (U16). Safe: the block never
  issues such a READ. -/
  | readWithoutPointer
  /-- Raised by `step` in ISSUE or WAIT when CMD is no legal command; R105 has no such state. Safe. -/
  | noCommandHeld
  /-- Raised by a meaning in ISSUE or WAIT when STEP is past the end of the command's micro-program (for a codec
  command: always); R20 and R105 have no such state. Safe. -/
  | stepOutsideProgram
deriving DecidableEq, Repr

/-- Why an instruction has no meaning here. -/
inductive Refusal where
  /-- Raised by `exec` for a command whose meaning is not written yet. Safe. No arm raises it. -/
  | notModelled (mnemonic : String)
deriving DecidableEq, Repr

/-- The outcome of one step of this machine. -/
abbrev Out := Host.Outcome State Fault Refusal

end Machine

end Sys2Proof
end

