-- ==== Sys2Proof/Machine/Flags.lean ====
section
/-! DEFINITION. The flag and condition bits: the bits of the chip's registers that the block writes and reads (10_state.md
R27 to R30, R33), the FSM encoding (R18) and the status codes (R23, R31). -/

namespace Sys2Proof

namespace Machine

/-- R27, R33: the clock-halt flag CH, bit 7 of the seconds register; 0 is running. -/
def clockHalt (b : Byte) : Bool := b.getLsbD 7

/-- R28, R33: the 12/24-hour mode bit, bit 6 of the hours register; 1 is 12-hour mode. -/
def mode12 (b : Byte) : Bool := b.getLsbD 6

/-- R29, R33: bit 5 of the hours register: PM in 12-hour mode, the tens-of-hours bit of weight 20 in 24-hour mode. -/
def pmOrTwenty (b : Byte) : Bool := b.getLsbD 5

/-- R30: the halt flag result of INIT, `zext_8(rb[7])`. -/
def haltFlag (rb : Byte) : Byte := if clockHalt rb then 0x01#8 else 0x00#8

/-- R18: the encoding of the sequencer state. -/
def fsmCode : Fsm → BitVec 2
  | .idle => 0b00#2
  | .issue => 0b01#2
  | .wait => 0b10#2
  | .done => 0b11#2

/-- R23: the status codes. -/
def statusCode : Status → BitVec 2
  | .ok => 0b00#2
  | .transportError => 0b01#2
  | .illegalCommand => 0b10#2

end Machine

end Sys2Proof
end

