-- ==== Sys2Proof/Machine/CodecFunctions.lean ====
section
/-! DEFINITION. The pure functions of the two codec units, each defined once (40_codec.md R85 to R92) and used by the
codec commands and by the sequencer's micro-programs. -/

namespace Sys2Proof

namespace Machine

/-- R11: the high nibble `b[7:4]`. -/
def hiNibble (b : Byte) : Byte := b >>> 4

/-- R11: the low nibble `b[3:0]`. -/
def loNibble (b : Byte) : Byte := b &&& 0x0F#8

/-- R14, R86: both nibbles are decimal digits. -/
def bcdValid (b : Byte) : Bool := hiNibble b ≤ 9#8 && loNibble b ≤ 9#8

/-- R85: binary to packed BCD; the open parameter for 100 and more. -/
def bin2bcd (v : Byte) : Byte := if v < 100#8 then ((v / 10#8) <<< 4) ||| (v % 10#8) else Config.bin2bcdOor v

/-- R86: packed BCD to binary; the open parameter where a nibble is no decimal digit. -/
def bcd2bin (b : Byte) : Byte :=
  if bcdValid b then 10#8 * hiNibble b + loNibble b else Config.bcd2binInvalid b

/-- R88: hours and format to the hours-register byte. -/
def encHours (h : Byte) : Fmt → Byte
  | .h24 => bin2bcd h &&& 0xBF#8
  | .pm => bin2bcd h ||| 0x60#8
  | .am => (bin2bcd h ||| 0x40#8) &&& 0xDF#8

/-- R89: the hours-register byte to hours and format; bit 5 is cleared in 12-hour mode only (C2). -/
def decHours (b : Byte) : Byte × Fmt :=
  if !mode12 b then (bcd2bin (b &&& 0xBF#8), .h24)
  else if pmOrTwenty b then (bcd2bin (b &&& 0x9F#8), .pm)
  else (bcd2bin (b &&& 0x9F#8), .am)

/-- R91: seconds to the seconds-register byte, the clock-halt bit cleared. -/
def encSec (s : Byte) : Byte := bin2bcd s &&& 0x7F#8

/-- R92: the seconds-register byte to seconds, the clock-halt bit left out. -/
def decSec (b : Byte) : Byte := bcd2bin (b &&& 0x7F#8)

end Machine

end Sys2Proof
end

