-- ==== Sys2Proof/Machine/Programs.lean ====
section
/-! DEFINITION. The micro-programs of the sequenced commands, one entry for each row of the table of
41_register_access.md R106. -/

namespace Sys2Proof

namespace Machine

/-- R106, column "on ok": what the block does with the byte of a READ. -/
inductive Act where
  /-- `RES0 <- zext_8(b[7])`. -/
  | haltFlag
  /-- `RES0 <- decSec(b)`. -/
  | seconds
  /-- `RES0 <- bcd2bin(b)`. -/
  | bcd0
  /-- `RES1 <- bcd2bin(b)`. -/
  | bcd1
  /-- `RES2 <- bcd2bin(b)`. -/
  | bcd2
  /-- `RES3 <- bcd2bin(b)`. -/
  | bcd3
  /-- `(RES2, RFMT) <- decHours(b)`. -/
  | hours
deriving DecidableEq, Repr

/-- R106: one row, a request to the one device address with, for a READ, what becomes of its byte. -/
inductive Micro where
  /-- `CONFIGURE(D, SPEED_CLASS)`. -/
  | configure
  /-- `WRITE(D, [a, v])`. -/
  | write (a : RegAddr) (v : Byte)
  /-- `WRITE(D, [a])`. -/
  | pointer (a : RegAddr)
  /-- `READ(D, 1)`. -/
  | read (act : Act)
deriving DecidableEq, Repr

/-- R43, R50, R106: the request of a row; `D` is `DEV_ADDR` in every one. -/
def Micro.request : Micro → Request
  | .configure => .configure Config.devAddr Config.speedClass
  | .write a v => .write Config.devAddr a v
  | .pointer a => .pointer Config.devAddr a
  | .read _ => .read Config.devAddr

/-- R109: the two rows of a single-register read. -/
def memRead (a : RegAddr) (act : Act) : List Micro := [.pointer a, .read act]

/-- R106, INIT 0x8 (R110). -/
def initProgram : List Micro :=
  [.configure, .write Config.regSec 0x00#8] ++ memRead Config.regSec .haltFlag

/-- R106, SETTIME 0x9 (R111). -/
def settimeProgram (s m h : Byte) (fmt : Fmt) : List Micro :=
  [.write Config.regSec (encSec s), .write Config.regMin (bin2bcd m), .write Config.regHour (encHours h fmt)]

/-- R106, SETDATE 0xA (R112). -/
def setdateProgram (d w mo y : Byte) : List Micro :=
  [.write Config.regDate (bin2bcd d), .write Config.regWday (bin2bcd w), .write Config.regMonth (bin2bcd mo),
    .write Config.regYear (bin2bcd y)]

/-- R106, GETTIME 0xB (R113). -/
def gettimeProgram : List Micro :=
  memRead Config.regSec .seconds ++ memRead Config.regMin .bcd1 ++ memRead Config.regHour .hours

/-- R106, GETDATE 0xC (R114). -/
def getdateProgram : List Micro :=
  memRead Config.regDate .bcd0 ++ memRead Config.regWday .bcd1 ++ memRead Config.regMonth .bcd2
    ++ memRead Config.regYear .bcd3

/-- R106: the micro-program of a command; a codec command has no request (R101). -/
def program : Instr → List Micro
  | .bin2bcd _ => []
  | .bcd2bin _ => []
  | .enchours _ _ => []
  | .dechours _ => []
  | .encsec _ => []
  | .decsec _ => []
  | .init => initProgram
  | .settime s m h f => settimeProgram s m h f
  | .setdate d w mo y => setdateProgram d w mo y
  | .gettime => gettimeProgram
  | .getdate => getdateProgram

/-- R25: the row at which a state stands, a function of CMD and STEP alone. -/
def currentMicro (cmd : CmdWord) (stepIx : BitVec 3) : Option Micro :=
  match decode cmd with
  | .ok i => (program i)[stepIx.toNat]?
  | .error _ => none

/-- R25: the request `req(CMD.OP, STEP, CMD)`. -/
def currentRequest (cmd : CmdWord) (stepIx : BitVec 3) : Option Request := (currentMicro cmd stepIx).map Micro.request

end Machine

end Sys2Proof
end

