-- ==== Sys2Proof/Machine/Ops.lean ====
section
/-! DEFINITION. The shared operations: the chip's registers (20_memory.md R66), the environment's answer to a request (R64,
R80), the sequencer's handshakes (41_register_access.md R100 to R104), the two error endings of a command
(60_exceptions.md R118, R123) with the return from them (R127), and reset (70_reset_and_hazards.md R137, R138). -/

namespace Sys2Proof

namespace Machine

/-- The byte a chip register was given, if any. -/
def Memory.read : Memory → Nat → Option Byte
  | [], _ => none
  | (k, b) :: rest, a => if k = a then some b else if k < a then Memory.read rest a else none

/-- Give a chip register a byte, keeping the canonical form. -/
def Memory.write : Memory → Nat → Byte → Memory
  | [], a, v => [(a, v)]
  | (k, b) :: rest, a, v =>
    if a < k then (a, v) :: (k, b) :: rest
    else if a = k then (a, v) :: rest
    else (k, b) :: Memory.write rest a v

/-- R66 `REGS[a]`: what the chip holds at a register; the free initial contents where nothing was given (R42). -/
def Chip.value (c : Chip) (a : RegAddr) : Byte := (c.regs.read a.toNat).getD (Config.chipInitial a)

/-- R66: what a request that reaches the chip does to it. -/
def Chip.apply (c : Chip) : Request → Chip
  | .configure _ _ => c
  | .pointer _ a => ⟨c.regs, some a⟩
  | .write _ a v => ⟨c.regs.write a.toNat v, none⟩
  | .read _ => ⟨c.regs, none⟩

/-- R43, R50: the device a request addresses. -/
def Request.dev : Request → DevAddr
  | .configure d _ => d
  | .write d _ _ => d
  | .pointer d _ => d
  | .read d => d

/-- Whether a request is a READ. -/
def Request.isRead : Request → Bool
  | .read _ => true
  | .configure _ _ => false
  | .write _ _ _ => false
  | .pointer _ _ => false

/-- R64: what the block gets back for a request: `ok`, with the byte for a READ, or an error value. -/
inductive Result where
  /-- `ok`, or `ok([b])` for a READ. -/
  | ok (data : Option Byte)
  /-- `err(e)`. -/
  | err (e : TErr)
deriving DecidableEq, Repr

/-- R80: how the block reads the response wires: `trsp_data` counts on an `ok` answer to a READ only. -/
def TResp.result (r : TResp) (isRead : Bool) : Result :=
  if r.ok then .ok (if isRead then some r.data else none) else .err r.err

/-- R66: the reference chip's answer, `none` where it is stuck. -/
def Chip.reply (c : Chip) (q : Request) : Option (Result × Chip) :=
  if q.dev ≠ Config.devAddr then some (.err Config.eNodev, c)
  else
    match q with
    | .configure _ _ => some (.ok none, c)
    | .pointer d a => some (.ok none, c.apply (.pointer d a))
    | .write d a v => some (.ok none, c.apply (.write d a v))
    | .read d => c.ptr.map (fun a => (.ok (some (c.value a)), c.apply (.read d)))

/-- R64: the environment's answer to a request and the chip after it. A request answered `ok` has reached the chip, one
answered with an error has or has not (R51). -/
def Answer.resolve (a : Answer) (q : Request) (c : Chip) : Option (Result × Chip) :=
  match a with
  | .refChip => c.reply q
  | .oracle r landed => some (r.result q.isRead, if r.ok || landed then c.apply q else c)

/-- R100, R123: every result field, the format and nothing else becomes ⊥. -/
def State.clearResults (s : State) : State :=
  { s with res0 := none, res1 := none, res2 := none, res3 := none, rfmt := none }

/-- R100: the first part of acceptance: CMD takes the word, STEP is 0, every result, STATUS and ERR are ⊥. -/
def State.latch (w : CmdWord) (s : State) : State :=
  { s.clearResults with cmd := w, stepIx := 0#3, status := none, err := none }

/-- R116, R118: STATUS is written on entry to DONE. -/
def State.finish (st : Status) (s : State) : State := { s with status := some st, fsm := .done }

/-- R118: taking the ILLEGAL_COMMAND ending: the word is held, no request is issued, every result is ⊥. -/
def State.refuseIllegal (w : CmdWord) (s : State) : State := (s.latch w).finish .illegalCommand

/-- R123: taking the TRANSPORT_ERROR ending, `abort(e)`. -/
def State.abort (e : TErr) (s : State) : State := { s.clearResults with err := some e }.finish .transportError

/-- R77, R104: the response presented in DONE. -/
def State.response (s : State) : Response := ⟨s.status, s.rfmt, s.res3, s.res2, s.res1, s.res0, s.err⟩

/-- R104, R127: the return from every ending: the caller takes the response and the block is IDLE again. -/
def State.respond (s : State) : State := { s with fsm := .idle, delivered := s.delivered ++ [s.response] }

/-- R102: the transport takes the request. -/
def State.takeRequest (q : Request) (s : State) : State := { s with fsm := .wait, issued := s.issued ++ [q] }

/-- R103, R20: on to the next request of the micro-program. -/
def State.advance (s : State) : State := { s with stepIx := s.stepIx + 1#3, fsm := .issue }

/-- R106, column "on ok". -/
def Act.run (b : Byte) (s : State) : Act → State
  | .haltFlag => { s with res0 := some (Machine.haltFlag b) }
  | .seconds => { s with res0 := some (decSec b) }
  | .bcd0 => { s with res0 := some (bcd2bin b) }
  | .bcd1 => { s with res1 := some (bcd2bin b) }
  | .bcd2 => { s with res2 := some (bcd2bin b) }
  | .bcd3 => { s with res3 := some (bcd2bin b) }
  | .hours => { s with res2 := some (decHours b).1, rfmt := some (decHours b).2 }

/-- R103: a READ's byte goes where its row says; an `ok` to any other request carries no byte. -/
def Micro.deliver (m : Micro) (data : Option Byte) (s : State) : State :=
  match m, data with
  | .read act, some b => act.run b s
  | .read _, none => s
  | .configure, _ => s
  | .write _ _, _ => s
  | .pointer _, _ => s

/-- R103, the `ok` branch: the row's effect, then DONE after the last row and the next request before it. -/
def State.succeed (prog : List Micro) (m : Micro) (data : Option Byte) (s : State) : State :=
  if s.stepIx.toNat + 1 = prog.length then (m.deliver data s).finish .ok else (m.deliver data s).advance

/-- R103: the response to the outstanding request arrives; with no answer to come the block goes on waiting (R150). -/
def awaitResponse (prog : List Micro) (m : Micro) (s : State) : Out :=
  match s.answers with
  | [] => .next s
  | a :: rest =>
    match a.resolve m.request s.chip with
    | none => .fault .readWithoutPointer
    | some (.err e, c) => .next ({ s with answers := rest, chip := c }.abort e)
    | some (.ok data, c) => .next ({ s with answers := rest, chip := c }.succeed prog m data)

/-- R100, R101: a legal codec command, whole in its acceptance step: the word is latched, `write` puts the result fields,
STATUS is OK and the block is DONE. It has no request, so it is never in ISSUE or WAIT. -/
def codecStep (i : Instr) (write : State → State) (s : State) : Out :=
  match s.fsm with
  | .idle => .next ((write (s.latch (encode i))).finish .ok)
  | .issue => .fault .stepOutsideProgram
  | .wait => .fault .stepOutsideProgram
  | .done => .next s.respond

/-- R100, R102, R103, R104: one handshake of a legal sequenced command. -/
def sequencedStep (i : Instr) (prog : List Micro) (s : State) : Out :=
  match s.fsm with
  | .idle => .next { s.latch (encode i) with fsm := .issue }
  | .issue =>
    match prog[s.stepIx.toNat]? with
    | none => .fault .stepOutsideProgram
    | some m => .next (s.takeRequest m.request)
  | .wait =>
    match prog[s.stepIx.toNat]? with
    | none => .fault .stepOutsideProgram
    | some m => awaitResponse prog m s
  | .done => .next s.respond

/-- R138: the chip after a reset: a request in flight has reached it or has not; nothing else does. -/
def State.chipAfterReset (landed : Bool) (s : State) : Chip :=
  match s.fsm, currentRequest s.cmd s.stepIx with
  | .wait, some q => if landed then s.chip.apply q else s.chip
  | _, _ => s.chip

/-- R41, R137, R138: a reset of the block. The ports and the records of what has left through them stay. CMD and STEP
are unspecified after it: 0 here, DESIGN CHOICE (log 1). -/
def State.hardReset (landed : Bool) (s : State) : State :=
  { s.clearResults with
    fsm := .idle, cmd := 0x0000000000#40, stepIx := 0#3, status := none, err := none
    chip := s.chipAfterReset landed }

end Machine

end Sys2Proof
end

