-- ==== Sys2Proof/Machine/Clock.lean ====
section
/-! DEFINITION. The meanings of the five clock operations (41_register_access.md R110 to R114): each runs its
micro-program one handshake at a time. -/

namespace Sys2Proof

namespace Machine

/-- R110 INIT: configure the transport, write 0x00 to the seconds register, read it back, report the halt flag. -/
def execInit (st : State) : Out := sequencedStep .init initProgram st

/-- R111 SETTIME: write seconds, minutes and hours. -/
def execSettime (s m h : Byte) (f : Fmt) (st : State) : Out :=
  sequencedStep (.settime s m h f) (settimeProgram s m h f) st

/-- R112 SETDATE: write day-of-month, weekday, month and year. -/
def execSetdate (d w mo y : Byte) (st : State) : Out :=
  sequencedStep (.setdate d w mo y) (setdateProgram d w mo y) st

/-- R113 GETTIME: read seconds, minutes and hours with their format. -/
def execGettime (st : State) : Out := sequencedStep .gettime gettimeProgram st

/-- R114 GETDATE: read day-of-month, weekday, month and year. -/
def execGetdate (st : State) : Out := sequencedStep .getdate getdateProgram st

end Machine

end Sys2Proof
end

