-- ==== Sys2Proof/Machine/Codec.lean ====
section
/-! DEFINITION. The meanings of the six codec commands (40_codec.md R94 to R99): each is whole in its acceptance step
(R101). -/

namespace Sys2Proof

namespace Machine

/-- R94 BIN2BCD: `RES0 <- bin2bcd(v)`. -/
def execBin2bcd (v : Byte) (st : State) : Out :=
  codecStep (.bin2bcd v) (fun t => { t with res0 := some (bin2bcd v) }) st

/-- R95 BCD2BIN: `RES0 <- bcd2bin(b)`. -/
def execBcd2bin (b : Byte) (st : State) : Out :=
  codecStep (.bcd2bin b) (fun t => { t with res0 := some (bcd2bin b) }) st

/-- R96 ENCHOURS: `RES0 <- encHours(h, fmt)`. -/
def execEnchours (h : Byte) (f : Fmt) (st : State) : Out :=
  codecStep (.enchours h f) (fun t => { t with res0 := some (encHours h f) }) st

/-- R97 DECHOURS: `(RES0, RFMT) <- decHours(b)`. -/
def execDechours (b : Byte) (st : State) : Out :=
  codecStep (.dechours b) (fun t => { t with res0 := some (decHours b).1, rfmt := some (decHours b).2 }) st

/-- R98 ENCSEC: `RES0 <- encSec(s)`. -/
def execEncsec (s : Byte) (st : State) : Out :=
  codecStep (.encsec s) (fun t => { t with res0 := some (encSec s) }) st

/-- R99 DECSEC: `RES0 <- decSec(b)`. -/
def execDecsec (b : Byte) (st : State) : Out :=
  codecStep (.decsec b) (fun t => { t with res0 := some (decSec b) }) st

end Machine

end Sys2Proof
end

