-- ==== Sys2Proof/Machine/Dispatch.lean ====
section
/-! DEFINITION. One handshake of a command, by constructor: `exec i s` is what the block does in `s` while it accepts, runs
or answers the command `i` (30_encoding.md R69, 41_register_access.md R105). -/

namespace Sys2Proof.Machine

def exec (i : Instr) (s : State) : Host.Outcome State Fault Refusal :=
  match i with
  | .bin2bcd v => Sys2Proof.Machine.execBin2bcd v s
  | .bcd2bin b => Sys2Proof.Machine.execBcd2bin b s
  | .enchours h f => Sys2Proof.Machine.execEnchours h f s
  | .dechours b => Sys2Proof.Machine.execDechours b s
  | .encsec v => Sys2Proof.Machine.execEncsec v s
  | .decsec b => Sys2Proof.Machine.execDecsec b s
  | .init => Sys2Proof.Machine.execInit s
  | .settime sec m h f => Sys2Proof.Machine.execSettime sec m h f s
  | .setdate d w mo y => Sys2Proof.Machine.execSetdate d w mo y s
  | .gettime => Sys2Proof.Machine.execGettime s
  | .getdate => Sys2Proof.Machine.execGetdate s

end Sys2Proof.Machine
end

