-- ==== Sys2Proof/Machine/Ports.lean ====
section
/-! DEFINITION. The output wires of the block's ports as functions of the state (30_encoding.md R68, R77, R79;
41_register_access.md, Moore outputs of FSM). -/

namespace Sys2Proof

namespace Machine

/-- R137: whether `rst` is 1 at the coming step. -/
def rstHigh (s : State) : Bool :=
  match s.rst with
  | .high _ :: _ => true
  | .low :: _ => false
  | [] => false

/-- `cmd_ready = (FSM == IDLE)`, and 0 while `rst` is 1 (R137). -/
def cmdReady (s : State) : Bool := s.fsm == .idle && !rstHigh s

/-- `treq_valid = (FSM == ISSUE)`. -/
def treqValid (s : State) : Bool := s.fsm == .issue

/-- `rsp_valid = (FSM == DONE)`. -/
def rspValid (s : State) : Bool := s.fsm == .done

/-- R79: the wires of the transport request port; ⊥ is `none`. -/
structure RequestWires where
  /-- `treq_kind`. -/
  kind : BitVec 2
  /-- `treq_dev`. -/
  dev : DevAddr
  /-- `treq_len`. -/
  len : BitVec 2
  /-- `treq_b0`. -/
  b0 : Option Byte
  /-- `treq_b1`. -/
  b1 : Option Byte
  /-- `treq_speed`. -/
  speed : Option SpeedClass
deriving DecidableEq, Repr

/-- R79: how each request appears on the wires. -/
def Request.wires : Request → RequestWires
  | .configure d sp => ⟨0b00#2, d, 0#2, none, none, some sp⟩
  | .write d a v => ⟨0b01#2, d, 2#2, some a, some v, none⟩
  | .pointer d a => ⟨0b01#2, d, 1#2, some a, none, none⟩
  | .read d => ⟨0b10#2, d, Config.readCount, none, none, none⟩

/-- R47, R50: the bytes a request sends, in transmission order. -/
def Request.bytes : Request → List Byte
  | .configure _ _ => []
  | .write _ a v => [a, v]
  | .pointer _ a => [a]
  | .read _ => []

/-- R25, R102: the request the block presents, in ISSUE only. -/
def presentedRequest (s : State) : Option Request :=
  if treqValid s then currentRequest s.cmd s.stepIx else none

/-- R104: the response the block presents, in DONE only. -/
def presentedResponse (s : State) : Option Response := if rspValid s then some s.response else none

/-- R77: `rsp_word`, the fields at their weights. A field that is ⊥ may carry any bits: it carries those of `fill`, so a
claim for every `fill` holds whatever the hardware drives (log 10). -/
def Response.word (fill : BitVec 36) (r : Response) : BitVec 36 :=
  BitVec.ofNat 36
    (2 ^ 34 * ((r.status.map statusCode).getD (fill.extractLsb' 34 2)).toNat
      + 2 ^ 32 * ((r.rfmt.map fmtTag).getD (fill.extractLsb' 32 2)).toNat
      + 2 ^ 24 * (r.res3.getD (fill.extractLsb' 24 8)).toNat
      + 2 ^ 16 * (r.res2.getD (fill.extractLsb' 16 8)).toNat
      + 2 ^ 8 * (r.res1.getD (fill.extractLsb' 8 8)).toNat
      + (r.res0.getD (fill.extractLsb' 0 8)).toNat)

end Machine

end Sys2Proof
end

