-- ==== Sys2Proof/Machine/Sequencer.lean ====
section
/-! DEFINITION. What the block does at one step: one handshake on a port (30_encoding.md R69, 41_register_access.md
R105), or a reset (70_reset_and_hazards.md R137). -/

namespace Sys2Proof

namespace Machine

/-- R100: the next command word on the command port is taken: a legal one is accepted by its meaning, an illegal one is
refused (R118). With no word there the block holds (R105; log 3). -/
def acceptNext (s : State) : Out :=
  match s.cmds with
  | [] => .next s
  | w :: rest =>
    match decode w with
    | .ok i => exec i { s with cmds := rest }
    | .error _ => .next (State.refuseIllegal w { s with cmds := rest })

/-- R102, R103: the command held in CMD goes on. -/
def resumeHeld (s : State) : Out :=
  match decode s.cmd with
  | .ok i => exec i s
  | .error _ => .fault .noCommandHeld

/-- R105: the one handshake the sequencer state allows. -/
def handshake (s : State) : Out :=
  match s.fsm with
  | .idle => acceptNext s
  | .issue => resumeHeld s
  | .wait => resumeHeld s
  | .done => .next s.respond

/-- R105, R137: a reset where `rst` is 1, whatever else could happen at that step (log 12), and else a handshake. -/
def transition (s : State) : Out :=
  match s.rst with
  | .high landed :: rest => .next (State.hardReset landed { s with rst := rest })
  | .low :: rest => handshake { s with rst := rest }
  | [] => handshake s

/-- The state with a command word next on the command port and the block ready to take it: IDLE, `rst` low (log 14). -/
def presentWord (s : State) (w : CmdWord) : State := { s with cmds := w :: s.cmds, fsm := .idle, rst := [] }

end Machine

end Sys2Proof
end

