-- ==== Sys2Proof/Machine/Step.lean ====
section
/-! DEFINITION. One step of the machine (30_encoding.md R69), and how a command word comes to be the next one it takes. -/

namespace Sys2Proof

namespace Machine

/-- One step: one handshake on a port, or a reset. -/
def step (s : State) : Host.Outcome State Fault Refusal := transition s

/-- `s` with a word of the opcode table presented on the command port, so that the next step accepts it (log 14). -/
def State.withFetchWord (s : State) (nbits w : Nat) : State := presentWord s (wordOfTable nbits w)

end Machine

end Sys2Proof
end

