-- ==== Sys2Proof/Safety.lean ====
section
/-! DEFINITION. What counts as a safe run, in the terms the statements use: runs of steps and of one command's handshakes,
the contract of a transport request, and the invariant of the machine. -/

namespace Sys2Proof

namespace Machine

/-- `n` steps of the machine, stopping at the first fault or refusal. -/
def stepTimes : Nat → State → Out
  | 0, s => .next s
  | n + 1, s =>
    match step s with
    | .next t => stepTimes n t
    | .fault f => .fault f
    | .refused r => .refused r

/-- `n` handshakes of one command, stopping at the first fault or refusal. -/
def execTimes (i : Instr) : Nat → State → Out
  | 0, s => .next s
  | n + 1, s =>
    match exec i s with
    | .next t => execTimes i n t
    | .fault f => .fault f
    | .refused r => .refused r

/-- R72: the commands that make transport requests (opcodes 0x8 to 0xC). -/
def sequenced : Instr → Bool
  | .bin2bcd _ => false
  | .bcd2bin _ => false
  | .enchours _ _ => false
  | .dechours _ => false
  | .encsec _ => false
  | .decsec _ => false
  | .init => true
  | .settime _ _ _ _ => true
  | .setdate _ _ _ _ => true
  | .gettime => true
  | .getdate => true

/-- R43, R44, R135: a request is to the one device address, names one of the seven registers, and never sets the
clock-halt bit. -/
def requestInContract : Request → Prop
  | .configure d sp => d = Config.devAddr ∧ sp = Config.speedClass
  | .write d a v => d = Config.devAddr ∧ a.toNat ≤ 6 ∧ (a = Config.regSec → clockHalt v = false)
  | .pointer d a => d = Config.devAddr ∧ a.toNat ≤ 6
  | .read d => d = Config.devAddr

/-- The block is in the middle of a sequenced command (R18). -/
abbrev State.running (s : State) : Prop := s.fsm = .issue ∨ s.fsm = .wait

/-- What every state a run reaches satisfies. -/
structure State.Inv (s : State) : Prop where
  /-- The chip's register cells are in canonical form. -/
  memory : Memory.wf s.chip.regs
  /-- R20, R26, U16: while a command runs, CMD and STEP stand at a row of its micro-program, and a READ has its pointer. -/
  held : s.running → ∃ m, currentMicro s.cmd s.stepIx = some m ∧ (m.request.isRead = true → s.chip.ptr.isSome = true)
  /-- R58: in WAIT the one outstanding request is the last one issued. -/
  outstanding : s.fsm = .wait → s.issued.getLast? = currentRequest s.cmd s.stepIx
  /-- R23: STATUS is ⊥ while a command runs. -/
  unfinished : s.running → s.status = none
  /-- R23: STATUS is written when the response is presented. -/
  finished : s.fsm = .done → s.status.isSome = true
  /-- R24, R77: ERR holds a value exactly when STATUS is TRANSPORT_ERROR. -/
  errorValue : s.err.isSome = true ↔ s.status = some .transportError
  /-- R78: with an error status every result field is ⊥. -/
  errorResults : s.status = some .transportError ∨ s.status = some .illegalCommand →
    s.res0 = none ∧ s.res1 = none ∧ s.res2 = none ∧ s.res3 = none ∧ s.rfmt = none
  /-- R43, R44, R135: every request issued is in the contract. -/
  contract : ∀ q ∈ s.issued, requestInContract q

end Machine

end Sys2Proof
end

