-- ==== Sys2Proof/Certificates/Slice0/Obligations.lean ====
section
/-! DEFINITION. The statements for the provers. The helpers before them copy the spec's tables in numbers and literals of
their own, apart from the model's definitions, so that a statement says what the rule says. Clauses about `cmds`, `answers`,
`rst`, `issued` and `delivered` are about the model's own record of the ports (logs 4, 11, 12 and 14). -/

namespace Sys2Proof

namespace Machine

/-- R85 in numbers: the packed BCD byte of `v`. -/
def digitsByte (v : Byte) : Byte :=
  if v.toNat < 100 then BitVec.ofNat 8 (v.toNat / 10 * 16 + v.toNat % 10) else Config.bin2bcdOor v

/-- R86 in numbers: the value of the packed BCD byte `b`. -/
def digitsValue (b : Byte) : Byte :=
  if b.toNat / 16 ≤ 9 ∧ b.toNat % 16 ≤ 9 then BitVec.ofNat 8 (10 * (b.toNat / 16) + b.toNat % 16)
  else Config.bcd2binInvalid b

/-- R91 in numbers: the seconds byte, bit 7 dropped. -/
def secondsByte (s : Byte) : Byte := BitVec.ofNat 8 ((digitsByte s).toNat % 128)

/-- R92 in numbers: the seconds of a register byte, bit 7 dropped. -/
def secondsValue (b : Byte) : Byte := digitsValue (BitVec.ofNat 8 (b.toNat % 128))

/-- R88 bit by bit: the hours-register byte. -/
def hoursByte (h : Byte) (f : Fmt) : Byte :=
  BitVec.ofFnLE (fun k : Fin 8 =>
    match f with
    | .h24 => if k = 6 then false else (digitsByte h).getLsbD k
    | .am => if k = 6 then true else if k = 5 then false else (digitsByte h).getLsbD k
    | .pm => if k = 6 then true else if k = 5 then true else (digitsByte h).getLsbD k)

/-- R89 in numbers: hours and format of a register byte `b7 · 128 + mode · 64 + pm · 32 + low`. -/
def hoursValue (b : Byte) : Byte × Fmt :=
  if b.toNat / 64 % 2 = 0 then (digitsValue b, .h24)
  else (digitsValue (BitVec.ofNat 8 (b.toNat / 128 * 128 + b.toNat % 32)), if b.toNat / 32 % 2 = 1 then .pm else .am)

/-- R106, columns STEP and request, in literals: the requests of a command in order. -/
def tableRequests : Instr → List Request
  | .bin2bcd _ => []
  | .bcd2bin _ => []
  | .enchours _ _ => []
  | .dechours _ => []
  | .encsec _ => []
  | .decsec _ => []
  | .init => [.configure 0x68#7 Config.speedClass, .write 0x68#7 0x00#8 0x00#8, .pointer 0x68#7 0x00#8, .read 0x68#7]
  | .settime s m h f =>
    [.write 0x68#7 0x00#8 (secondsByte s), .write 0x68#7 0x01#8 (digitsByte m), .write 0x68#7 0x02#8 (hoursByte h f)]
  | .setdate d w mo y =>
    [.write 0x68#7 0x04#8 (digitsByte d), .write 0x68#7 0x03#8 (digitsByte w), .write 0x68#7 0x05#8 (digitsByte mo),
      .write 0x68#7 0x06#8 (digitsByte y)]
  | .gettime =>
    [.pointer 0x68#7 0x00#8, .read 0x68#7, .pointer 0x68#7 0x01#8, .read 0x68#7, .pointer 0x68#7 0x02#8, .read 0x68#7]
  | .getdate =>
    [.pointer 0x68#7 0x04#8, .read 0x68#7, .pointer 0x68#7 0x03#8, .read 0x68#7, .pointer 0x68#7 0x05#8, .read 0x68#7,
      .pointer 0x68#7 0x06#8, .read 0x68#7]

/-- R106, column "on ok": what the byte `b` of the response at STEP `k` writes. -/
def tableOnOk (i : Instr) (k : Nat) (b : Byte) (s : State) : State :=
  match i, k with
  | .init, 3 => { s with res0 := some (BitVec.ofNat 8 (b.toNat / 128)) }
  | .gettime, 1 => { s with res0 := some (secondsValue b) }
  | .gettime, 3 => { s with res1 := some (digitsValue b) }
  | .gettime, 5 => { s with res2 := some (hoursValue b).1, rfmt := some (hoursValue b).2 }
  | .getdate, 1 => { s with res0 := some (digitsValue b) }
  | .getdate, 3 => { s with res1 := some (digitsValue b) }
  | .getdate, 5 => { s with res2 := some (digitsValue b) }
  | .getdate, 7 => { s with res3 := some (digitsValue b) }
  | _, _ => s

/-- R100: the working registers right after a command word was accepted. -/
def accepted (w : CmdWord) (s : State) : State :=
  { s with cmd := w, stepIx := 0#3, res0 := none, res1 := none, res2 := none, res3 := none, rfmt := none, status := none,
           err := none }

/-- R116: a command that ends well. -/
def endedOk (s : State) : State := { s with status := some .ok, fsm := .done }

/-- R123: a command that ends on the transport error `e`. -/
def endedOnError (e : TErr) (s : State) : State :=
  { s with err := some e, status := some .transportError, res0 := none, res1 := none, res2 := none, res3 := none,
           rfmt := none, fsm := .done }

/-- The oracle answers every one of the requests with `ok`. -/
def allOk (as : List Answer) : Prop := ∀ a ∈ as, ∃ r landed, a = .oracle r landed ∧ r.ok = true

/-- R123, R115, R124: a command whose request `k` is the first to fail ends on that error, with all requests up to and with
it issued and none after it. The last clause is about the model's record of the chip (log 7): the requests before it reached
the chip and none after it did; whether the failing one did is open (R51), and `landed` says it. The count of handshakes
is log 2's. -/
def abortsAtFirstError (i : Instr) : Prop :=
  ∀ (s : State) (as rest : List Answer) (r : TResp) (landed : Bool),
    s.fsm = .idle → s.answers = as ++ .oracle r landed :: rest → allOk as → r.ok = false →
    as.length < (tableRequests i).length →
    ∃ t, execTimes i (2 * as.length + 3) s = .next t ∧ t.fsm = .done ∧ t.status = some .transportError ∧
      t.err = some r.err ∧ t.res0 = none ∧ t.res1 = none ∧ t.res2 = none ∧ t.res3 = none ∧ t.rfmt = none ∧
      t.issued = s.issued ++ (tableRequests i).take (as.length + 1) ∧ t.answers = rest ∧
      t.chip = ((tableRequests i).take (if landed = true then as.length + 1 else as.length)).foldl Chip.apply s.chip

/-- The rows of spec/opcode_table.json: mnemonic, mask and match. -/
def opcodeRows : List (String × CmdWord × CmdWord) :=
  [("BIN2BCD", 0xFFFFFFFF00#40, 0x1000000000#40), ("BCD2BIN", 0xFFFFFFFF00#40, 0x2000000000#40),
    ("ENCHOURS", 0xF3FFFFFF00#40, 0x3000000000#40), ("DECHOURS", 0xFFFFFFFF00#40, 0x4000000000#40),
    ("ENCSEC", 0xFFFFFFFF00#40, 0x5000000000#40), ("DECSEC", 0xFFFFFFFF00#40, 0x6000000000#40)]
  ++ [("INIT", 0xFFFFFFFFFF#40, 0x8000000000#40), ("SETTIME", 0xF3FF000000#40, 0x9000000000#40),
    ("SETDATE", 0xFF00000000#40, 0xA000000000#40), ("GETTIME", 0xFFFFFFFFFF#40, 0xB000000000#40),
    ("GETDATE", 0xFFFFFFFFFF#40, 0xC000000000#40)]

end Machine

end Sys2Proof

open Sys2Proof Sys2Proof.Machine

/-! ### Encoding -/

/-- R82, 95_test_vectors.md sections 1 and 2: words written out from the encodings, one or more for each command. -/
def Obligations.SampleWordsDecode : Prop :=
  decode 0x100000003B#40 = .ok (.bin2bcd 59#8) ∧ decode 0x2000000059#40 = .ok (.bcd2bin 0x59#8) ∧
  decode 0x3C0000000A#40 = .ok (.enchours 10#8 .pm) ∧ decode 0x380000000C#40 = .ok (.enchours 12#8 .am) ∧
  decode 0x4000000070#40 = .ok (.dechours 0x70#8) ∧ decode 0x5000000001#40 = .ok (.encsec 1#8) ∧
  decode 0x60000000D9#40 = .ok (.decsec 0xD9#8) ∧ decode 0x8000000000#40 = .ok .init ∧
  decode 0x9C000A1901#40 = .ok (.settime 1#8 25#8 10#8 .pm) ∧ decode 0xA0160C031B#40 = .ok (.setdate 27#8 3#8 12#8 22#8) ∧
  decode 0xB000000000#40 = .ok .gettime ∧ decode 0xC000000000#40 = .ok .getdate

/-- R70 to R74: no bit of an encoding is dropped, at every value of every operand. -/
def Obligations.DecodeAfterEncode : Prop := ∀ i : Instr, decode (encode i) = .ok i

/-- R70 to R76: each legal word has one meaning, and it is the word of that meaning. -/
def Obligations.EncodeAfterDecode : Prop := ∀ (w : CmdWord) (i : Instr), decode w = .ok i → encode i = w

/-- R75: the decoder accepts exactly the words that pass the legality check. -/
def Obligations.DecoderAcceptsExactlyLegalWords : Prop :=
  ∀ w : CmdWord, legalWord w = true ↔ ∃ i, decode w = .ok i

/-- spec/opcode_table.json with R75's constraint on FMT: a word decodes to a command of a row exactly when it matches the
row under its mask and its format tag is not the reserved one. -/
def Obligations.OpcodeTableMasksDecode : Prop :=
  ∀ row ∈ opcodeRows, ∀ w : CmdWord,
    (w &&& row.2.1 = row.2.2 ∧ w.extractLsb' 34 2 ≠ 0b01#2) ↔ ∃ i, decode w = .ok i ∧ mnemonic i = row.1

/-- R73: the tags; 0b01 names no format; and for the 12-hour formats the tag is bits 6 and 5 of the hours byte. -/
def Obligations.FormatTagsAreHoursBits : Prop :=
  fmtTag .h24 = 0b00#2 ∧ fmtTag .am = 0b10#2 ∧ fmtTag .pm = 0b11#2 ∧ fmtOfTag 0b01#2 = none ∧
  (∀ f, fmtTag f ≠ 0b01#2) ∧ (∀ f, fmtOfTag (fmtTag f) = some f) ∧
  ∀ (h : Byte) (f : Fmt), f ≠ .h24 → (encHours h f).extractLsb' 5 2 = fmtTag f

/-! ### The codec functions -/

/-- R87: both round trips of the BCD codec, and the valid bytes are exactly the images of 0 to 99. -/
def Obligations.BcdRoundTrip : Prop :=
  (∀ v : Byte, v.toNat < 100 → bcd2bin (bin2bcd v) = v) ∧
  (∀ b : Byte, bcdValid b = true → bin2bcd (bcd2bin b) = b ∧ (bcd2bin b).toNat < 100) ∧
  (∀ v : Byte, v.toNat < 100 → bcdValid (bin2bcd v) = true)

/-- R90: the sets of hours, below 100, on which the hours round trip holds, and that it fails off them. -/
def Obligations.HoursRoundTripSets : Prop :=
  ∀ h : Byte, h.toNat < 100 →
    (decHours (encHours h .h24) = (h, .h24) ↔ h.toNat < 40 ∨ 80 ≤ h.toNat) ∧
    (decHours (encHours h .am) = (h, .am) ↔ h.toNat < 20 ∨ 80 ≤ h.toNat) ∧
    (decHours (encHours h .pm) = (h, .pm) ↔ h.toNat < 20 ∨ 80 ≤ h.toNat)

/-- R93: the seconds round trip, what it gives from 80 on, and the clock-halt bit that is 0 for every input. -/
def Obligations.SecondsRoundTrip : Prop :=
  (∀ s : Byte, s.toNat < 80 → decSec (encSec s) = s) ∧
  (∀ s : Byte, 80 ≤ s.toNat → s.toNat < 100 → decSec (encSec s) = s - 80#8) ∧
  (∀ s : Byte, (encSec s).getLsbD 7 = false)

/-! ### The codec commands -/

/-- R94, R85: BIN2BCD completes in its acceptance step with the two digits, or the open parameter from 100 on; nothing
else changes. -/
def Obligations.Bin2bcdResult : Prop :=
  ∀ (v : Byte) (s : State), s.fsm = .idle →
    encode (.bin2bcd v) = 0x1000000000#40 ||| v.setWidth 40 ∧
    exec (.bin2bcd v) s =
      .next (endedOk { accepted (encode (.bin2bcd v)) s with res0 := some (digitsByte v) })

/-- R95, R86: BCD2BIN. -/
def Obligations.Bcd2binResult : Prop :=
  ∀ (b : Byte) (s : State), s.fsm = .idle →
    encode (.bcd2bin b) = 0x2000000000#40 ||| b.setWidth 40 ∧
    exec (.bcd2bin b) s =
      .next (endedOk { accepted (encode (.bcd2bin b)) s with res0 := some (digitsValue b) })

/-- R96, R88: ENCHOURS, the byte bit by bit. -/
def Obligations.EnchoursResult : Prop :=
  ∀ (h : Byte) (f : Fmt) (s : State), s.fsm = .idle →
    encode (.enchours h f) =
      (match f with | .h24 => 0x3000000000#40 | .am => 0x3800000000#40 | .pm => 0x3C00000000#40) ||| h.setWidth 40 ∧
    exec (.enchours h f) s =
      .next (endedOk { accepted (encode (.enchours h f)) s with res0 := some (hoursByte h f) })

/-- R97, R89: DECHOURS writes RES0 and RFMT. -/
def Obligations.DechoursResult : Prop :=
  ∀ (b : Byte) (s : State), s.fsm = .idle →
    encode (.dechours b) = 0x4000000000#40 ||| b.setWidth 40 ∧
    exec (.dechours b) s =
      .next (endedOk { accepted (encode (.dechours b)) s with
        res0 := some (hoursValue b).1, rfmt := some (hoursValue b).2 })

/-- R98, R91: ENCSEC. -/
def Obligations.EncsecResult : Prop :=
  ∀ (v : Byte) (s : State), s.fsm = .idle →
    encode (.encsec v) = 0x5000000000#40 ||| v.setWidth 40 ∧ (secondsByte v).getLsbD 7 = false ∧
    exec (.encsec v) s =
      .next (endedOk { accepted (encode (.encsec v)) s with res0 := some (secondsByte v) })

/-- R99, R92: DECSEC. -/
def Obligations.DecsecResult : Prop :=
  ∀ (b : Byte) (s : State), s.fsm = .idle →
    encode (.decsec b) = 0x6000000000#40 ||| b.setWidth 40 ∧
    exec (.decsec b) s =
      .next (endedOk { accepted (encode (.decsec b)) s with res0 := some (secondsValue b) })

/-! ### The sequencer -/

/-- R100: acceptance of each of the five sequenced commands. -/
def Obligations.SequencedCommandAccepted : Prop :=
  ∀ (i : Instr) (s : State), sequenced i = true → s.fsm = .idle →
    exec i s = .next { accepted (encode i) s with fsm := .issue }

/-- R102, R106: in ISSUE the block presents the request of its table row, and the transport's taking it changes nothing but
FSM and the record of requests. -/
def Obligations.TableRequestIssued : Prop :=
  ∀ (i : Instr) (s : State) (q : Request),
    decode s.cmd = .ok i → s.fsm = .issue → (tableRequests i)[s.stepIx.toNat]? = some q →
    presentedRequest s = some q ∧ exec i s = .next { s with fsm := .wait, issued := s.issued ++ [q] }

/-- R103, R106: an `ok` response writes what the table's row says; after the last row the command ends with STATUS OK,
before it STEP goes up by 1 and the next request is presented. That the record of the chip takes the request is the
model's own (log 7). -/
def Obligations.OkResponseAdvances : Prop :=
  ∀ (i : Instr) (s : State) (q : Request) (r : TResp) (landed : Bool) (rest : List Answer),
    s.fsm = .wait → (tableRequests i)[s.stepIx.toNat]? = some q → s.answers = .oracle r landed :: rest → r.ok = true →
    exec i s =
      .next
        (if s.stepIx.toNat + 1 = (tableRequests i).length then
          endedOk (tableOnOk i s.stepIx.toNat r.data { s with answers := rest, chip := s.chip.apply q })
        else
          { tableOnOk i s.stepIx.toNat r.data { s with answers := rest, chip := s.chip.apply q } with
            stepIx := s.stepIx + 1#3, fsm := .issue })

/-- R123: an error response ends the command at once; every result is ⊥ and ERR is the transport's value unchanged. The clause
on `chip` is about the model's record of the chip (log 7): a failed request of any kind reached it or did not, which R51
and R124 leave open for a WRITE, and after an access its pointer is ⊥. -/
def Obligations.ErrorResponseAborts : Prop :=
  ∀ (i : Instr) (s : State) (q : Request) (r : TResp) (landed : Bool) (rest : List Answer),
    s.fsm = .wait → (tableRequests i)[s.stepIx.toNat]? = some q → s.answers = .oracle r landed :: rest → r.ok = false →
    exec i s =
      .next (endedOnError r.err
        { s with answers := rest, chip := if landed = true then s.chip.apply q else s.chip })

/-- R104, R127: in DONE, and there only, the block presents the response; without a reset the caller takes it and the block is
IDLE again. No step outside DONE hands out a response. That a step under reset hands out none in DONE either is the
model's choice (log 12: the reset wins over a handshake at the same step), beside R138's rule that an abandoned command
gets no response. -/
def Obligations.ResponseTakenOnce : Prop :=
  (∀ s : State, s.fsm = .done → rspValid s = true ∧
    presentedResponse s = some ⟨s.status, s.rfmt, s.res3, s.res2, s.res1, s.res0, s.err⟩) ∧
  (∀ s : State, s.fsm ≠ .done → rspValid s = false ∧ presentedResponse s = none) ∧
  (∀ s : State, rstHigh s = false → s.fsm = .done →
    ∃ r, presentedResponse s = some r ∧
      step s = .next { s with rst := s.rst.tail, fsm := .idle, delivered := s.delivered ++ [r] }) ∧
  (∀ s t : State, (rstHigh s = true ∨ s.fsm ≠ .done) → step s = .next t → t.delivered = s.delivered)

/-- R75, R118: a word that fails the legality check ends with ILLEGAL_COMMAND at acceptance: every result and ERR are ⊥, no
request is issued and no chip register changes. -/
def Obligations.IllegalCommandRefused : Prop :=
  ∀ (s : State) (w : CmdWord) (rest : List CmdWord),
    s.fsm = .idle → rstHigh s = false → s.cmds = w :: rest → legalWord w = false →
    step s = .next { accepted w { s with cmds := rest, rst := s.rst.tail } with
      status := some .illegalCommand, fsm := .done }

/-- R69, R100, R102, R103: a step is the meaning of the command word taken, or of the command held, at the state as it is but
for the word taken from the port and the reset sample used up. -/
def Obligations.StepRunsDecodedCommand : Prop :=
  (∀ (s : State) (w : CmdWord) (rest : List CmdWord) (i : Instr),
    s.fsm = .idle → rstHigh s = false → s.cmds = w :: rest → decode w = .ok i →
    step s = exec i { s with cmds := rest, rst := s.rst.tail }) ∧
  (∀ (s : State) (i : Instr), s.running → rstHigh s = false → decode s.cmd = .ok i →
    step s = exec i { s with rst := s.rst.tail })

/-- The block holds where no handshake can happen: the model's own stutter, log 3. -/
def Obligations.BlockHoldsWithoutEvent : Prop :=
  (∀ s : State, s.fsm = .idle → s.rst = [] → s.cmds = [] → step s = .next s) ∧
  (∀ (s : State) (q : Request), s.fsm = .wait → s.rst = [] → s.answers = [] → currentRequest s.cmd s.stepIx = some q →
    step s = .next s)

/-- R18: the encoding of the sequencer state, and what each state presents: the command port is ready in IDLE (R137: but not
while `rst` is 1), a request is presented in ISSUE, a response in DONE, and nothing in WAIT. -/
def Obligations.SequencerStateCodes : Prop :=
  fsmCode .idle = 0b00#2 ∧ fsmCode .issue = 0b01#2 ∧ fsmCode .wait = 0b10#2 ∧ fsmCode .done = 0b11#2 ∧
  ∀ s : State,
    (cmdReady s = true ↔ fsmCode s.fsm = 0b00#2 ∧ rstHigh s = false) ∧
    (treqValid s = true ↔ fsmCode s.fsm = 0b01#2) ∧ (rspValid s = true ↔ fsmCode s.fsm = 0b11#2) ∧
    (fsmCode s.fsm = 0b10#2 → cmdReady s = false ∧ presentedRequest s = none ∧ presentedResponse s = none)

/-- R105: the complete transition relation. -/
def Obligations.TransitionRelation : Prop :=
  ∀ s t : State, step s = .next t →
    (rstHigh s = true → t.fsm = .idle) ∧
    (rstHigh s = false →
      (t = { s with rst := s.rst.tail } ∧ ((s.fsm = .idle ∧ s.cmds = []) ∨ (s.fsm = .wait ∧ s.answers = []))) ∨
      (s.fsm = .idle ∧ t.fsm = .done ∧ ∃ w rest, s.cmds = w :: rest ∧
        (legalWord w = false ∨ ∃ i, decode w = .ok i ∧ sequenced i = false)) ∨
      (s.fsm = .idle ∧ t.fsm = .issue ∧ ∃ w rest i, s.cmds = w :: rest ∧ decode w = .ok i ∧ sequenced i = true) ∨
      (s.fsm = .issue ∧ t.fsm = .wait) ∨
      (s.fsm = .wait ∧ t.fsm = .done ∧ t.status = some .transportError ∧ t.err.isSome = true) ∨
      (s.fsm = .wait ∧ t.fsm = .done ∧ t.status = some .ok ∧
        ∃ i, decode s.cmd = .ok i ∧ s.stepIx.toNat + 1 = (tableRequests i).length) ∨
      (s.fsm = .wait ∧ t.fsm = .issue ∧
        ∃ i, decode s.cmd = .ok i ∧ s.stepIx.toNat + 1 < (tableRequests i).length) ∨
      (s.fsm = .done ∧ t.fsm = .idle))

/-- R20: STEP is 0 after an acceptance, goes up by 1 on an `ok` that is not the last, and stays otherwise; a reset leaves it
unspecified. -/
def Obligations.StepCounterRule : Prop :=
  ∀ s t : State, rstHigh s = false → step s = .next t →
    (s.fsm = .idle → s.cmds ≠ [] → t.stepIx = 0#3) ∧
    (s.fsm = .idle → s.cmds = [] → t.stepIx = s.stepIx) ∧
    (s.fsm = .wait → t.fsm = .issue → t.stepIx.toNat = s.stepIx.toNat + 1) ∧
    (s.fsm = .wait → t.fsm ≠ .issue → t.stepIx = s.stepIx) ∧
    (s.fsm = .issue → t.stepIx = s.stepIx) ∧
    (s.fsm = .done → t.stepIx = s.stepIx)

/-- R19, R63, R100: the command port is ready in IDLE and in no other state; the word is latched at acceptance and CMD changes
at no other step without a reset; while a command runs the command port has no effect. -/
def Obligations.CommandWordLatched : Prop :=
  (∀ s : State, s.fsm ≠ .idle → cmdReady s = false) ∧
  (∀ s : State, s.fsm = .idle → rstHigh s = false → cmdReady s = true) ∧
  (∀ (s t : State) (w : CmdWord) (rest : List CmdWord),
    rstHigh s = false → s.fsm = .idle → s.cmds = w :: rest → step s = .next t → t.cmd = w) ∧
  (∀ s t : State, rstHigh s = false → s.fsm ≠ .idle → step s = .next t → t.cmd = s.cmd) ∧
  (∀ (s t : State) (port : List CmdWord),
    s.fsm ≠ .idle → step s = .next t → step { s with cmds := port } = .next { t with cmds := port })

/-- R17, R62: what an acceptance makes of the block depends on nothing an earlier command left in its registers. -/
def Obligations.AcceptanceForgetsEarlierCommands : Prop :=
  ∀ (s s' : State) (w : CmdWord) (rest : List CmdWord),
    s.fsm = .idle → rstHigh s = false → s.cmds = w :: rest →
    s'.fsm = .idle → s'.chip = s.chip → s'.cmds = s.cmds → s'.answers = s.answers → s'.rst = s.rst →
    s'.issued = s.issued → s'.delivered = s.delivered →
    step s' = step s

/-! ### Whole commands -/

/-- R110: INIT, all four requests answered `ok`; the same under the reference chip, where it starts a halted clock; and its
abort. The record of the chip and its pointer under oracle answers are the model's (log 7), the nine handshakes are log
2's, and 0x01 for a halted clock is R30's own choice (D14: a claim about a driver uses zero or nonzero only). -/
def Obligations.InitRun : Prop :=
  (∀ (s : State) (r0 r1 r2 r3 : TResp) (l0 l1 l2 l3 : Bool) (rest : List Answer),
    s.fsm = .idle → r0.ok = true → r1.ok = true → r2.ok = true → r3.ok = true →
    s.answers = .oracle r0 l0 :: .oracle r1 l1 :: .oracle r2 l2 :: .oracle r3 l3 :: rest →
    execTimes .init 9 s = .next (endedOk
      { accepted 0x8000000000#40 s with
        stepIx := 3#3, answers := rest, chip := ⟨Memory.write s.chip.regs 0 0x00#8, none⟩
        issued := s.issued ++ [.configure 0x68#7 Config.speedClass, .write 0x68#7 0x00#8 0x00#8,
          .pointer 0x68#7 0x00#8, .read 0x68#7]
        res0 := some (if 128 ≤ r3.data.toNat then 0x01#8 else 0x00#8) })) ∧
  (∀ (s : State) (rest : List Answer),
    s.fsm = .idle → s.answers = .refChip :: .refChip :: .refChip :: .refChip :: rest →
    ∃ t, execTimes .init 9 s = .next t ∧ t.fsm = .done ∧ t.status = some .ok ∧ t.res0 = some 0x00#8 ∧
      t.chip.value 0x00#8 = 0x00#8) ∧
  abortsAtFirstError .init

/-- R111: SETTIME, all three writes answered `ok`, and its abort (R124). The record of the chip and its pointer under oracle
answers, and whether a failing request reached it, are the model's (log 7), and the seven handshakes are log 2's. -/
def Obligations.SettimeRun : Prop :=
  ∀ (sec mi ho : Byte) (f : Fmt),
    (∀ (s : State) (r0 r1 r2 : TResp) (l0 l1 l2 : Bool) (rest : List Answer),
      s.fsm = .idle → r0.ok = true → r1.ok = true → r2.ok = true →
      s.answers = .oracle r0 l0 :: .oracle r1 l1 :: .oracle r2 l2 :: rest →
      execTimes (.settime sec mi ho f) 7 s = .next (endedOk
        { accepted (encode (.settime sec mi ho f)) s with
          stepIx := 2#3, answers := rest
          chip := ⟨Memory.write (Memory.write (Memory.write s.chip.regs 0 (secondsByte sec)) 1 (digitsByte mi)) 2
            (hoursByte ho f), none⟩
          issued := s.issued ++ [.write 0x68#7 0x00#8 (secondsByte sec), .write 0x68#7 0x01#8 (digitsByte mi),
            .write 0x68#7 0x02#8 (hoursByte ho f)] })) ∧
    abortsAtFirstError (.settime sec mi ho f)

/-- R112: SETDATE, all four writes answered `ok`, in the order 0x04, 0x03, 0x05, 0x06, and its abort (R124). The record of the
chip and its pointer under oracle answers, and whether a failing request reached it, are the model's (log 7), and the nine
handshakes are log 2's. -/
def Obligations.SetdateRun : Prop :=
  ∀ d w mo y : Byte,
    (∀ (s : State) (r0 r1 r2 r3 : TResp) (l0 l1 l2 l3 : Bool) (rest : List Answer),
      s.fsm = .idle → r0.ok = true → r1.ok = true → r2.ok = true → r3.ok = true →
      s.answers = .oracle r0 l0 :: .oracle r1 l1 :: .oracle r2 l2 :: .oracle r3 l3 :: rest →
      execTimes (.setdate d w mo y) 9 s = .next (endedOk
        { accepted (encode (.setdate d w mo y)) s with
          stepIx := 3#3, answers := rest
          chip := ⟨Memory.write (Memory.write (Memory.write (Memory.write s.chip.regs 4 (digitsByte d)) 3 (digitsByte w)) 5
            (digitsByte mo)) 6 (digitsByte y), none⟩
          issued := s.issued ++ [.write 0x68#7 0x04#8 (digitsByte d), .write 0x68#7 0x03#8 (digitsByte w),
            .write 0x68#7 0x05#8 (digitsByte mo), .write 0x68#7 0x06#8 (digitsByte y)] })) ∧
    abortsAtFirstError (.setdate d w mo y)

/-- R113: GETTIME reports the seconds without their halt bit, the minutes, and the hours with the format of their mode bit;
the same of the registers of the reference chip; and its abort. That the record of the chip keeps its registers and has no
pointer under oracle answers is the model's (logs 7 and 17; R37 gives no pointer value), and the thirteen handshakes are
log 2's. -/
def Obligations.GettimeRun : Prop :=
  (∀ (s : State) (r0 r1 r2 r3 r4 r5 : TResp) (l0 l1 l2 l3 l4 l5 : Bool) (rest : List Answer),
    s.fsm = .idle → r0.ok = true → r1.ok = true → r2.ok = true → r3.ok = true → r4.ok = true → r5.ok = true →
    s.answers = .oracle r0 l0 :: .oracle r1 l1 :: .oracle r2 l2 :: .oracle r3 l3 :: .oracle r4 l4 :: .oracle r5 l5 :: rest →
    execTimes .gettime 13 s = .next (endedOk
      { accepted 0xB000000000#40 s with
        stepIx := 5#3, answers := rest, chip := ⟨s.chip.regs, none⟩
        issued := s.issued ++ [.pointer 0x68#7 0x00#8, .read 0x68#7, .pointer 0x68#7 0x01#8, .read 0x68#7,
          .pointer 0x68#7 0x02#8, .read 0x68#7]
        res0 := some (secondsValue r1.data), res1 := some (digitsValue r3.data)
        res2 := some (hoursValue r5.data).1, rfmt := some (hoursValue r5.data).2 })) ∧
  (∀ (s : State) (rest : List Answer), s.fsm = .idle → s.answers = List.replicate 6 .refChip ++ rest →
    ∃ t, execTimes .gettime 13 s = .next t ∧ t.fsm = .done ∧ t.chip.regs = s.chip.regs ∧
      t.response = ⟨some .ok, some (hoursValue (s.chip.value 0x02#8)).2, none, some (hoursValue (s.chip.value 0x02#8)).1,
        some (digitsValue (s.chip.value 0x01#8)), some (secondsValue (s.chip.value 0x00#8)), none⟩) ∧
  abortsAtFirstError .gettime

/-- R114: GETDATE reports day-of-month, weekday, month and year, no field masked; the same of the registers of the reference
chip; and its abort. That the record of the chip keeps its registers and has no pointer under oracle answers is the model's
(logs 7 and 17; R37 gives no pointer value), and the seventeen handshakes are log 2's. -/
def Obligations.GetdateRun : Prop :=
  (∀ (s : State) (r0 r1 r2 r3 r4 r5 r6 r7 : TResp) (l0 l1 l2 l3 l4 l5 l6 l7 : Bool) (rest : List Answer),
    s.fsm = .idle → r0.ok = true → r1.ok = true → r2.ok = true → r3.ok = true → r4.ok = true → r5.ok = true →
    r6.ok = true → r7.ok = true →
    s.answers = .oracle r0 l0 :: .oracle r1 l1 :: .oracle r2 l2 :: .oracle r3 l3 :: .oracle r4 l4 :: .oracle r5 l5 ::
      .oracle r6 l6 :: .oracle r7 l7 :: rest →
    execTimes .getdate 17 s = .next (endedOk
      { accepted 0xC000000000#40 s with
        stepIx := 7#3, answers := rest, chip := ⟨s.chip.regs, none⟩
        issued := s.issued ++ [.pointer 0x68#7 0x04#8, .read 0x68#7, .pointer 0x68#7 0x03#8, .read 0x68#7,
          .pointer 0x68#7 0x05#8, .read 0x68#7, .pointer 0x68#7 0x06#8, .read 0x68#7]
        res0 := some (digitsValue r1.data), res1 := some (digitsValue r3.data)
        res2 := some (digitsValue r5.data), res3 := some (digitsValue r7.data) })) ∧
  (∀ (s : State) (rest : List Answer), s.fsm = .idle → s.answers = List.replicate 8 .refChip ++ rest →
    ∃ t, execTimes .getdate 17 s = .next t ∧ t.fsm = .done ∧ t.chip.regs = s.chip.regs ∧
      t.response = ⟨some .ok, none, some (digitsValue (s.chip.value 0x06#8)), some (digitsValue (s.chip.value 0x05#8)),
        some (digitsValue (s.chip.value 0x03#8)), some (digitsValue (s.chip.value 0x04#8)), none⟩) ∧
  abortsAtFirstError .getdate

/-- R115: the number of requests of a successful command, none for a codec or an illegal command, and `k + 1` for a command
that aborts at request `k`. The chip clause of `abortsAtFirstError` is the model's record (log 7), and the counts of
handshakes are log 2's. -/
def Obligations.RequestCounts : Prop :=
  ((tableRequests .init).length = 4 ∧ (∀ s m h f, (tableRequests (.settime s m h f)).length = 3) ∧
    (∀ d w mo y, (tableRequests (.setdate d w mo y)).length = 4) ∧ (tableRequests .gettime).length = 6 ∧
    (tableRequests .getdate).length = 8) ∧
  (∀ (i : Instr) (s : State) (as rest : List Answer),
    sequenced i = true → s.fsm = .idle → s.answers = as ++ rest → allOk as → as.length = (tableRequests i).length →
    ∃ t, execTimes i (2 * as.length + 1) s = .next t ∧ t.fsm = .done ∧ t.status = some .ok ∧ t.err = none ∧
      t.issued = s.issued ++ tableRequests i ∧ t.answers = rest) ∧
  (∀ (i : Instr) (s t : State), sequenced i = false → s.fsm = .idle → exec i s = .next t →
    t.fsm = .done ∧ t.issued = s.issued) ∧
  (∀ (s t : State) (w : CmdWord) (rest : List CmdWord), s.fsm = .idle → rstHigh s = false → s.cmds = w :: rest →
    legalWord w = false → step s = .next t → t.fsm = .done ∧ t.issued = s.issued) ∧
  (∀ i : Instr, sequenced i = true → abortsAtFirstError i)

/-- R150: with an answer for every request, whatever it is, an oracle's or the reference chip's in any mixture, a sequenced
command reaches DONE within 17 handshakes and issues at most eight requests. That a presented request is taken at the next
step is the model's choice (log 13), and R150's fairness in its place. -/
def Obligations.SequencedCommandTerminates : Prop :=
  ∀ (i : Instr) (s : State),
    sequenced i = true → s.fsm = .idle → 8 ≤ s.answers.length →
    ∃ n t, n ≤ 17 ∧ execTimes i n s = .next t ∧ t.fsm = .done ∧ t.status.isSome = true ∧
      t.issued.length ≤ s.issued.length + 8

/-- 95_test_vectors.md E6 for every time of the round-trip sets (R90, R93): under the reference chip (R66) the time set is
the time got. It is a claim about the reference chip (R67). -/
def Obligations.SetTimeThenGetTime : Prop :=
  ∀ (s : State) (sec mi ho : Byte) (f : Fmt) (rest : List Answer) (port : List CmdWord),
    s.fsm = .idle → s.rst = [] → Memory.wf s.chip.regs →
    s.cmds = encode (.settime sec mi ho f) :: encode .gettime :: port →
    s.answers = List.replicate 9 .refChip ++ rest →
    sec.toNat < 80 → mi.toNat < 100 → (ho.toNat < 20 ∨ (80 ≤ ho.toNat ∧ ho.toNat < 100) ∨ (f = .h24 ∧ ho.toNat < 40)) →
    ∃ t, stepTimes 21 s = .next t ∧ t.fsm = .done ∧
      t.response = ⟨some .ok, some f, none, some ho, some mi, some sec, none⟩

/-- 95_test_vectors.md E6: under the reference chip (R66) the date set is the date got, for every operand below 100. It is a
claim about the reference chip (R67). -/
def Obligations.SetDateThenGetDate : Prop :=
  ∀ (s : State) (d w mo y : Byte) (rest : List Answer) (port : List CmdWord),
    s.fsm = .idle → s.rst = [] → Memory.wf s.chip.regs →
    s.cmds = encode (.setdate d w mo y) :: encode .getdate :: port →
    s.answers = List.replicate 12 .refChip ++ rest →
    d.toNat < 100 → w.toNat < 100 → mo.toNat < 100 → y.toNat < 100 →
    ∃ t, stepTimes 27 s = .next t ∧ t.fsm = .done ∧
      t.response = ⟨some .ok, none, some y, some mo, some w, some d, none⟩

/-! ### Frames -/

/-- R101, R21: a codec command touches no chip register, no port and no record, and of the result fields only those its rule
names hold a value afterwards. -/
def Obligations.CodecFrame : Prop :=
  ∀ (i : Instr) (s t : State), sequenced i = false → s.fsm = .idle → exec i s = .next t →
    t.chip = s.chip ∧ (∀ x, Memory.read t.chip.regs x = Memory.read s.chip.regs x) ∧ t.cmds = s.cmds ∧
    t.answers = s.answers ∧ t.rst = s.rst ∧ t.issued = s.issued ∧ t.delivered = s.delivered ∧
    t.err = none ∧ t.res1 = none ∧ t.res2 = none ∧ t.res3 = none ∧ t.res0.isSome = true ∧
    ((∀ b, i ≠ .dechours b) → t.rfmt = none)

/-- R21, R78: the result fields a sequenced command does not name stay as they are or become ⊥; no command port, reset input
or CMD changes after acceptance; every chip register but the one of an answered WRITE reads as before. -/
def Obligations.SequencedFrame : Prop :=
  ∀ (i : Instr) (s t : State), sequenced i = true → Memory.wf s.chip.regs → exec i s = .next t →
    t.cmds = s.cmds ∧ t.rst = s.rst ∧ (s.fsm ≠ .idle → t.cmd = s.cmd) ∧ (s.fsm ≠ .done → t.delivered = s.delivered) ∧
    (s.fsm ≠ .issue → t.issued = s.issued) ∧
    (s.fsm ≠ .idle → t.fsm ≠ .done → t.status = s.status ∧ t.err = s.err) ∧
    ((i ≠ .gettime ∧ i ≠ .getdate) → (t.res1 = s.res1 ∨ t.res1 = none) ∧ (t.res2 = s.res2 ∨ t.res2 = none)) ∧
    ((i ≠ .init ∧ i ≠ .gettime ∧ i ≠ .getdate) → (t.res0 = s.res0 ∨ t.res0 = none)) ∧
    (i ≠ .getdate → (t.res3 = s.res3 ∨ t.res3 = none)) ∧ (i ≠ .gettime → (t.rfmt = s.rfmt ∨ t.rfmt = none)) ∧
    (∀ x, (∀ d a v, s.fsm = .wait → (tableRequests i)[s.stepIx.toNat]? = some (.write d a v) → x ≠ a.toNat) →
      Memory.read t.chip.regs x = Memory.read s.chip.regs x) ∧
    (s.fsm ≠ .wait → t.chip = s.chip)

/-- R36: a register of the model's record of the chip changes only by the WRITE request outstanding in WAIT, and then to its
data byte: over every step, a reset included. That the record changes by requests only is the model's (logs 7 and 17); R36
adds that the chip's own timekeeping changes its registers too. -/
def Obligations.ChipChangesOnlyByWrite : Prop :=
  ∀ (s t : State) (x : Nat), Memory.wf s.chip.regs → step s = .next t →
    Memory.read t.chip.regs x ≠ Memory.read s.chip.regs x →
    s.fsm = .wait ∧ ∃ d a v, currentRequest s.cmd s.stepIx = some (.write d a v) ∧ x = a.toNat ∧
      Memory.read t.chip.regs x = some v

/-! ### The transport port -/

/-- R43: every request goes to the one device address, whatever word or state the block is given. -/
def Obligations.RequestsGoToOneDevice : Prop :=
  ∀ s t : State, step s = .next t →
    ∃ new, t.issued = s.issued ++ new ∧ ∀ q ∈ new, q.dev = 0x68#7

/-- R44, R32: every register address sent is one of the seven, for all inputs, valid or not. -/
def Obligations.OnlySevenRegisterAddresses : Prop :=
  ∀ s t : State, step s = .next t →
    ∃ new, t.issued = s.issued ++ new ∧ ∀ q ∈ new, ∀ a rest, q.bytes = a :: rest → a.toNat ≤ 6

/-- R135, R27: the seconds register is written by INIT, with 0x00, and by SETTIME, with the clock-halt bit 0, and by no other
command. -/
def Obligations.OscillatorNeverHalted : Prop :=
  ∀ (s t : State) (d : DevAddr) (v : Byte), step s = .next t → t.issued = s.issued ++ [.write d 0x00#8 v] →
    v.getLsbD 7 = false ∧
    ((decode s.cmd = .ok .init ∧ v = 0x00#8) ∨
      ∃ sec mi ho f, decode s.cmd = .ok (.settime sec mi ho f) ∧ v = secondsByte sec)

/-- R58: a request is issued only from ISSUE, one at a time, and the block leaves WAIT for the next request only by taking
the answer to the one outstanding. -/
def Obligations.OneRequestOutstanding : Prop :=
  ∀ s t : State, step s = .next t →
    ((s.fsm = .issue ∧ rstHigh s = false ∧ t.fsm = .wait ∧ ∃ q, presentedRequest s = some q ∧ t.issued = s.issued ++ [q]) ∨
      t.issued = s.issued) ∧
    (s.fsm = .wait → t.fsm = .issue → ∃ a, s.answers = a :: t.answers)

/-- R79, R47: the wires of every request the block presents, one clause for each of the four requests: kind, device, length,
bytes and speed. A wire that is ⊥ is `none` (log 10). No request has kind 0b11, and the bytes sent stand on the byte wires
in their order. -/
def Obligations.RequestWireFormat : Prop :=
  ∀ (s : State) (q : Request), presentedRequest s = some q →
    (∀ d sp, q = .configure d sp → q.wires = ⟨0b00#2, 0x68#7, 0#2, none, none, some Config.speedClass⟩) ∧
    (∀ d a v, q = .write d a v → q.wires = ⟨0b01#2, 0x68#7, 2#2, some a, some v, none⟩) ∧
    (∀ d a, q = .pointer d a → q.wires = ⟨0b01#2, 0x68#7, 1#2, some a, none, none⟩) ∧
    (∀ d, q = .read d → q.wires = ⟨0b10#2, 0x68#7, 1#2, none, none, none⟩) ∧
    q.wires.kind ≠ 0b11#2 ∧ q.bytes = q.wires.b0.toList ++ q.wires.b1.toList

/-- R80: `trsp_data` counts only on an `ok` answer to a READ, and `trsp_err` only on an error. -/
def Obligations.IgnoredResponseWires : Prop :=
  ∀ (i : Instr) (s : State) (r r' : TResp) (landed : Bool) (rest : List Answer),
    s.fsm = .wait → r'.ok = r.ok → (r.ok = true → ∀ q, (tableRequests i)[s.stepIx.toNat]? = some q → q.isRead = true → r'.data = r.data) →
    (r.ok = false → r'.err = r.err) →
    exec i { s with answers := .oracle r landed :: rest } = exec i { s with answers := .oracle r' landed :: rest }

/-- R51, R124: whether a failed WRITE changed its register is open: both outcomes are in the model, and every other register
reads as before in both. -/
def Obligations.FailedWriteBothWays : Prop :=
  ∀ (i : Instr) (s : State) (d : DevAddr) (a : RegAddr) (v : Byte) (r : TResp) (rest : List Answer),
    s.fsm = .wait → Memory.wf s.chip.regs → (tableRequests i)[s.stepIx.toNat]? = some (.write d a v) → r.ok = false →
    (∃ t, exec i { s with answers := .oracle r true :: rest } = .next t ∧ Memory.read t.chip.regs a.toNat = some v ∧
      ∀ x, x ≠ a.toNat → Memory.read t.chip.regs x = Memory.read s.chip.regs x) ∧
    (∃ t, exec i { s with answers := .oracle r false :: rest } = .next t ∧ t.chip = s.chip)

/-- R66: the reference chip, row by row, with its stuck READ. -/
def Obligations.ReferenceChipRows : Prop :=
  ∀ (c : Chip) (a : RegAddr) (v : Byte) (sp : SpeedClass),
    Answer.refChip.resolve (.configure 0x68#7 sp) c = some (.ok none, c) ∧
    Answer.refChip.resolve (.pointer 0x68#7 a) c = some (.ok none, ⟨c.regs, some a⟩) ∧
    Answer.refChip.resolve (.write 0x68#7 a v) c = some (.ok none, ⟨Memory.write c.regs a.toNat v, none⟩) ∧
    (c.ptr = none → Answer.refChip.resolve (.read 0x68#7) c = none) ∧
    (c.ptr = some a → Answer.refChip.resolve (.read 0x68#7) c = some (.ok (some (c.value a)), ⟨c.regs, none⟩)) ∧
    (∀ q : Request, q.dev ≠ 0x68#7 → Answer.refChip.resolve q c = some (.err Config.eNodev, c)) ∧
    (Memory.wf c.regs → Chip.value ⟨Memory.write c.regs a.toNat v, none⟩ a = v ∧
      ∀ x, x ≠ a → Chip.value ⟨Memory.write c.regs a.toNat v, none⟩ x = c.value x)

/-- R77, R23, R73, R21: the fields of the response word, with the codes of STATUS and RFMT in literals; a field that is ⊥
carries whatever the hardware drives (log 10). -/
def Obligations.ResponseWordFields : Prop :=
  ∀ (fill : BitVec 36) (r : Response),
    (r.status = some .ok → (r.word fill).extractLsb' 34 2 = 0b00#2) ∧
    (r.status = some .transportError → (r.word fill).extractLsb' 34 2 = 0b01#2) ∧
    (r.status = some .illegalCommand → (r.word fill).extractLsb' 34 2 = 0b10#2) ∧
    (r.rfmt = some .h24 → (r.word fill).extractLsb' 32 2 = 0b00#2) ∧
    (r.rfmt = some .am → (r.word fill).extractLsb' 32 2 = 0b10#2) ∧
    (r.rfmt = some .pm → (r.word fill).extractLsb' 32 2 = 0b11#2) ∧
    (∀ b, r.res3 = some b → (r.word fill).extractLsb' 24 8 = b) ∧
    (∀ b, r.res2 = some b → (r.word fill).extractLsb' 16 8 = b) ∧
    (∀ b, r.res1 = some b → (r.word fill).extractLsb' 8 8 = b) ∧
    (∀ b, r.res0 = some b → (r.word fill).extractLsb' 0 8 = b) ∧
    (r.status = none → (r.word fill).extractLsb' 34 2 = fill.extractLsb' 34 2) ∧
    (r.rfmt = none → (r.word fill).extractLsb' 32 2 = fill.extractLsb' 32 2) ∧
    (r.res3 = none → (r.word fill).extractLsb' 24 8 = fill.extractLsb' 24 8) ∧
    (r.res2 = none → (r.word fill).extractLsb' 16 8 = fill.extractLsb' 16 8) ∧
    (r.res1 = none → (r.word fill).extractLsb' 8 8 = fill.extractLsb' 8 8) ∧
    (r.res0 = none → (r.word fill).extractLsb' 0 8 = fill.extractLsb' 0 8)

/-! ### Reset -/

/-- R41: the state after reset, every value the spec gives. CMD and STEP are unspecified there and stand in no clause. -/
def Obligations.ResetStateValues : Prop :=
  State.reset.fsm = .idle ∧ State.reset.res0 = none ∧ State.reset.res1 = none ∧ State.reset.res2 = none ∧
  State.reset.res3 = none ∧ State.reset.rfmt = none ∧ State.reset.status = none ∧ State.reset.err = none ∧
  presentedRequest State.reset = none ∧ presentedResponse State.reset = none ∧ cmdReady State.reset = true

/-- R137: a reset in any state: IDLE, every result, STATUS and ERR ⊥, nothing presented, and the command port not ready while
`rst` is 1. -/
def Obligations.ResetEntersIdle : Prop :=
  ∀ (s : State) (landed : Bool) (rest : List RstLevel), s.rst = .high landed :: rest →
    cmdReady s = false ∧
    ∃ t, step s = .next t ∧ t.fsm = .idle ∧ t.res0 = none ∧ t.res1 = none ∧ t.res2 = none ∧ t.res3 = none ∧
      t.rfmt = none ∧ t.status = none ∧ t.err = none ∧ treqValid t = false ∧ rspValid t = false ∧
      t.rst = rest ∧ (rstHigh t = false → cmdReady t = true)

/-- R138, R139, R42: a reset issues no request and hands out no response; outside WAIT it leaves the chip as it is, and in
WAIT only the request in flight may have reached it. -/
def Obligations.ResetLeavesChip : Prop :=
  ∀ (s : State) (landed : Bool) (rest : List RstLevel), s.rst = .high landed :: rest →
    ∃ t, step s = .next t ∧ t.issued = s.issued ∧ t.delivered = s.delivered ∧ t.cmds = s.cmds ∧ t.answers = s.answers ∧
      (s.fsm ≠ .wait → t.chip = s.chip) ∧ (landed = false → t.chip = s.chip) ∧
      (∀ q, s.fsm = .wait → currentRequest s.cmd s.stepIx = some q → landed = true → t.chip = s.chip.apply q)

/-! ### The invariant -/

/-- The invariant holds right after reset. -/
def Obligations.InvariantAtReset : Prop := State.reset.Inv

/-- Every step keeps the invariant, a reset and an illegal command included. -/
def Obligations.StepKeepsInvariant : Prop := ∀ s t : State, s.Inv → step s = .next t → t.Inv

/-- From a state of the invariant no step stops: no ordinary data, no answer and no command word ends a run, and the
reference chip is never stuck (U16). -/
def Obligations.NoStepStops : Prop := ∀ s : State, s.Inv → ∃ t, step s = .next t

/-- The chip's register cells keep their canonical form over every step of every state. -/
def Obligations.StepKeepsChipCellsCanonical : Prop :=
  ∀ s t : State, Memory.wf s.chip.regs → step s = .next t → Memory.wf t.chip.regs
end

