-- ==== Sys2Proof/Laws/Codec.lean ====
section
/-! SUPPORT. The codec functions in exact arithmetic on numbers (40_codec.md R83): one lemma per function, which a proof
cites instead of unfolding the function. -/

namespace Sys2Proof

namespace Machine

/-- R85, R83: below 100 the two decimal digits stand in the two nibbles. -/
theorem bin2bcd_of_lt {v : Byte} (h : v.toNat < 100) :
    bin2bcd v = BitVec.ofNat 8 (v.toNat / 10 * 16 + v.toNat % 10) := by
  revert v
  decide

/-- R85: for 100 and more the result is the open parameter. -/
theorem bin2bcd_of_ge {v : Byte} (h : 100 ≤ v.toNat) : bin2bcd v = Config.bin2bcdOor v := by
  rw [bin2bcd, if_neg]
  simpa [BitVec.lt_def] using h

/-- R14, R86: validity in numbers. -/
theorem bcdValid_iff (b : Byte) : bcdValid b = true ↔ b.toNat / 16 ≤ 9 ∧ b.toNat % 16 ≤ 9 := by
  revert b
  decide

/-- R86: a valid byte is worth ten times its high nibble and its low nibble. -/
theorem bcd2bin_of_valid {b : Byte} (h : bcdValid b = true) :
    bcd2bin b = BitVec.ofNat 8 (10 * (b.toNat / 16) + b.toNat % 16) := by
  rw [bcd2bin, if_pos h]
  revert b
  decide

/-- R86: for an invalid byte the result is the open parameter. -/
theorem bcd2bin_of_invalid {b : Byte} (h : bcdValid b = false) : bcd2bin b = Config.bcd2binInvalid b := by
  simp [bcd2bin, h]

/-- R91: bit 7 of the seconds byte is 0 for every input. -/
@[simp] theorem clockHalt_encSec (s : Byte) : clockHalt (encSec s) = false := by
  have h : ∀ b : Byte, clockHalt (b &&& 0x7F#8) = false := by decide
  exact h _

end Machine

end Sys2Proof
end

