-- ==== Sys2Proof/Laws/Encoding.lean ====
section
/-! SUPPORT. The fields of an assembled command word are the fields it was assembled from, and a word is the assembly of
its fields. -/

namespace Sys2Proof

open Machine

section Fields

variable (op : BitVec 4) (t : BitVec 2) (d3 d2 d1 d0 : Byte)

theorem assembleWord_toNat : (assembleWord op t d3 d2 d1 d0).toNat =
    2 ^ 36 * op.toNat + 2 ^ 34 * t.toNat + 2 ^ 24 * d3.toNat + 2 ^ 16 * d2.toNat + 2 ^ 8 * d1.toNat + d0.toNat := by
  have := op.isLt; have := t.isLt; have := d3.isLt; have := d2.isLt; have := d1.isLt; have := d0.isLt
  unfold assembleWord
  rw [BitVec.toNat_ofNat]
  omega

@[simp] theorem opField_assembleWord : opField (assembleWord op t d3 d2 d1 d0) = op := by
  have := op.isLt; have := t.isLt; have := d3.isLt; have := d2.isLt; have := d1.isLt; have := d0.isLt
  apply BitVec.eq_of_toNat_eq
  rw [opField, BitVec.extractLsb'_toNat, assembleWord_toNat, Nat.shiftRight_eq_div_pow]
  omega

@[simp] theorem fmtField_assembleWord : fmtField (assembleWord op t d3 d2 d1 d0) = t := by
  have := op.isLt; have := t.isLt; have := d3.isLt; have := d2.isLt; have := d1.isLt; have := d0.isLt
  apply BitVec.eq_of_toNat_eq
  rw [fmtField, BitVec.extractLsb'_toNat, assembleWord_toNat, Nat.shiftRight_eq_div_pow]
  omega

@[simp] theorem rsvField_assembleWord : rsvField (assembleWord op t d3 d2 d1 d0) = 0b00#2 := by
  have := op.isLt; have := t.isLt; have := d3.isLt; have := d2.isLt; have := d1.isLt; have := d0.isLt
  apply BitVec.eq_of_toNat_eq
  rw [rsvField, BitVec.extractLsb'_toNat, assembleWord_toNat, Nat.shiftRight_eq_div_pow]
  simp only [BitVec.toNat_ofNat]
  omega

@[simp] theorem opd3_assembleWord : opd3 (assembleWord op t d3 d2 d1 d0) = d3 := by
  have := op.isLt; have := t.isLt; have := d3.isLt; have := d2.isLt; have := d1.isLt; have := d0.isLt
  apply BitVec.eq_of_toNat_eq
  rw [opd3, BitVec.extractLsb'_toNat, assembleWord_toNat, Nat.shiftRight_eq_div_pow]
  omega

@[simp] theorem opd2_assembleWord : opd2 (assembleWord op t d3 d2 d1 d0) = d2 := by
  have := op.isLt; have := t.isLt; have := d3.isLt; have := d2.isLt; have := d1.isLt; have := d0.isLt
  apply BitVec.eq_of_toNat_eq
  rw [opd2, BitVec.extractLsb'_toNat, assembleWord_toNat, Nat.shiftRight_eq_div_pow]
  omega

@[simp] theorem opd1_assembleWord : opd1 (assembleWord op t d3 d2 d1 d0) = d1 := by
  have := op.isLt; have := t.isLt; have := d3.isLt; have := d2.isLt; have := d1.isLt; have := d0.isLt
  apply BitVec.eq_of_toNat_eq
  rw [opd1, BitVec.extractLsb'_toNat, assembleWord_toNat, Nat.shiftRight_eq_div_pow]
  omega

@[simp] theorem opd0_assembleWord : opd0 (assembleWord op t d3 d2 d1 d0) = d0 := by
  have := op.isLt; have := t.isLt; have := d3.isLt; have := d2.isLt; have := d1.isLt; have := d0.isLt
  apply BitVec.eq_of_toNat_eq
  rw [opd0, BitVec.extractLsb'_toNat, assembleWord_toNat, Nat.shiftRight_eq_div_pow]
  omega

end Fields

/-- R70: with `RSV` zero, a command word is the assembly of its fields. -/
theorem assembleWord_fields (w : CmdWord) (h : rsvField w = 0b00#2) :
    assembleWord (opField w) (fmtField w) (opd3 w) (opd2 w) (opd1 w) (opd0 w) = w := by
  have hw := w.isLt
  have h' := congrArg BitVec.toNat h
  apply BitVec.eq_of_toNat_eq
  rw [assembleWord_toNat]
  simp only [opField, fmtField, rsvField, opd3, opd2, opd1, opd0, BitVec.extractLsb'_toNat, Nat.shiftRight_eq_div_pow,
    BitVec.toNat_ofNat] at h' ⊢
  omega

@[simp] theorem fmtOfTag_fmtTag (f : Fmt) : fmtOfTag (fmtTag f) = some f := by cases f <;> rfl

/-- R73: a tag that names a format is that format's tag. -/
theorem fmtTag_of_fmtOfTag {t : BitVec 2} {f : Fmt} (h : fmtOfTag t = some f) : fmtTag f = t := by
  revert t f
  decide

/-- R73: only the reserved tag names no format. -/
theorem fmtOfTag_eq_none_iff (t : BitVec 2) : fmtOfTag t = none ↔ t = 0b01#2 := by
  revert t
  decide

/-! ### What each decoding form accepts (R74, R75), on a word given by its fields -/

theorem decodeByte_eq_ok_iff {w : CmdWord} {mk : Byte → Instr} {i : Instr} :
    decodeByte w mk = .ok i ↔
      fmtField w = 0b00#2 ∧ opd3 w = 0x00#8 ∧ opd2 w = 0x00#8 ∧ opd1 w = 0x00#8 ∧ mk (opd0 w) = i := by
  unfold decodeByte
  split
  · simp_all
  · split
    · simp_all
      tauto
    · simp_all

theorem decodePlain_eq_ok_iff {w : CmdWord} {j i : Instr} :
    decodePlain w j = .ok i ↔
      fmtField w = 0b00#2 ∧ opd3 w = 0x00#8 ∧ opd2 w = 0x00#8 ∧ opd1 w = 0x00#8 ∧ opd0 w = 0x00#8 ∧ j = i := by
  unfold decodePlain
  split
  · simp_all
  · split
    · simp_all
      tauto
    · simp_all

theorem decodeEnchours_eq_ok_iff {w : CmdWord} {i : Instr} :
    decodeEnchours w = .ok i ↔
      ∃ f, fmtOfTag (fmtField w) = some f ∧ opd3 w = 0x00#8 ∧ opd2 w = 0x00#8 ∧ opd1 w = 0x00#8 ∧
        .enchours (opd0 w) f = i := by
  unfold decodeEnchours withFormat
  split
  · simp_all
  · split
    · simp_all
      tauto
    · simp_all

theorem decodeSettime_eq_ok_iff {w : CmdWord} {i : Instr} :
    decodeSettime w = .ok i ↔
      ∃ f, fmtOfTag (fmtField w) = some f ∧ opd3 w = 0x00#8 ∧ .settime (opd0 w) (opd1 w) (opd2 w) f = i := by
  unfold decodeSettime withFormat
  split
  · simp_all
  · split <;> simp_all

theorem decodeSetdate_eq_ok_iff {w : CmdWord} {i : Instr} :
    decodeSetdate w = .ok i ↔ fmtField w = 0b00#2 ∧ .setdate (opd0 w) (opd1 w) (opd2 w) (opd3 w) = i := by
  unfold decodeSetdate
  split <;> simp_all

/-- R72: with `RSV` zero, the opcode alone chooses the decoding form. -/
theorem decode_eq_ok_iff {w : CmdWord} {i : Instr} :
    decode w = .ok i ↔ rsvField w = 0b00#2 ∧
      ((opField w = 0x1#4 ∧ decodeByte w .bin2bcd = .ok i) ∨ (opField w = 0x2#4 ∧ decodeByte w .bcd2bin = .ok i) ∨
        (opField w = 0x3#4 ∧ decodeEnchours w = .ok i) ∨ (opField w = 0x4#4 ∧ decodeByte w .dechours = .ok i) ∨
        (opField w = 0x5#4 ∧ decodeByte w .encsec = .ok i) ∨ (opField w = 0x6#4 ∧ decodeByte w .decsec = .ok i) ∨
        (opField w = 0x8#4 ∧ decodePlain w .init = .ok i) ∨ (opField w = 0x9#4 ∧ decodeSettime w = .ok i) ∨
        (opField w = 0xA#4 ∧ decodeSetdate w = .ok i) ∨ (opField w = 0xB#4 ∧ decodePlain w .gettime = .ok i) ∨
        (opField w = 0xC#4 ∧ decodePlain w .getdate = .ok i)) := by
  have hop : ∀ n, (opField w).toNat = n ↔ opField w = BitVec.ofNat 4 n ∧ n < 16 := by
    intro n
    constructor
    · intro h
      exact ⟨by rw [← h]; simp, by rw [← h]; exact (opField w).isLt⟩
    · rintro ⟨h, hn⟩
      rw [h, BitVec.toNat_ofNat, Nat.mod_eq_of_lt hn]
  unfold decode
  split
  · simp_all
  · next hr =>
    have hr : rsvField w = 0b00#2 := by simpa using hr
    split
    case h_12 => simp_all
    all_goals
      next he => simp [((hop _).1 he).1, hr]

end Sys2Proof
end

