-- ==== Sys2Proof/Laws/Memory.lean ====
section
/-! SUPPORT. The chip's register cells: reading after writing, the canonical form kept, and what a request does to the
chip. -/

namespace Sys2Proof

namespace Machine

@[simp] theorem Memory.read_write_self (m : Memory) (a : Nat) (v : Byte) : (Memory.write m a v).read a = some v := by
  induction m with
  | nil => simp [Memory.write, Memory.read]
  | cons c rest ih =>
    obtain ⟨k, b⟩ := c
    unfold Memory.write
    split
    · simp [Memory.read]
    · split
      · simp [Memory.read]
      · rw [Memory.read, if_neg (by omega), if_pos (by omega)]
        exact ih

theorem Memory.read_write_of_ne (m : Memory) {a x : Nat} (v : Byte) (h : x ≠ a) :
    (Memory.write m a v).read x = m.read x ∨ ¬ m.Pairwise (fun p q => p.1 < q.1) := by
  by_cases hm : m.Pairwise (fun p q => p.1 < q.1)
  · left
    induction m with
    | nil => simp [Memory.write, Memory.read, Ne.symm h]
    | cons c rest ih =>
      obtain ⟨k, b⟩ := c
      have hrest := List.pairwise_cons.1 hm
      unfold Memory.write
      split
      · next hlt =>
        rw [Memory.read, if_neg (Ne.symm h)]
        split
        · rfl
        · next hx =>
          rw [Memory.read, if_neg (by omega), if_neg (by omega)]
      · split
        · next heq =>
          subst heq
          simp only [Memory.read, if_neg (Ne.symm h)]
        · simp only [Memory.read]
          split
          · rfl
          · split
            · exact ih hrest.2
            · rfl
  · exact .inr hm

/-- A write leaves every other address as it was. -/
theorem Memory.read_write_other {m : Memory} (hm : Memory.wf m) {a x : Nat} (v : Byte) (h : x ≠ a) :
    (Memory.write m a v).read x = m.read x :=
  (Memory.read_write_of_ne m v h).resolve_right fun hn => hn hm.1

theorem Memory.mem_write {m : Memory} {a : Nat} {v : Byte} {c : Host.Cell} (h : c ∈ Memory.write m a v) :
    c = (a, v) ∨ c ∈ m := by
  induction m with
  | nil => simpa [Memory.write] using h
  | cons d rest ih =>
    obtain ⟨k, b⟩ := d
    unfold Memory.write at h
    split at h
    · simpa using h
    · split at h
      · rcases List.mem_cons.1 h with h | h
        · exact .inl h
        · exact .inr (List.mem_cons_of_mem _ h)
      · rcases List.mem_cons.1 h with h | h
        · exact .inr (h ▸ List.mem_cons_self)
        · exact (ih h).imp_right (List.mem_cons_of_mem _)

/-- A write keeps the canonical form. -/
theorem Memory.wf_write {m : Memory} (hm : Memory.wf m) {a : Nat} (ha : a < 256) (v : Byte) :
    Memory.wf (Memory.write m a v) := by
  refine ⟨?_, fun c hc => ?_⟩
  · induction m with
    | nil => simp [Memory.write]
    | cons d rest ih =>
      obtain ⟨k, b⟩ := d
      have hp := List.pairwise_cons.1 hm.1
      have hrest : Memory.wf rest := ⟨hp.2, fun c hc => hm.2 c (List.mem_cons_of_mem _ hc)⟩
      unfold Memory.write
      split
      · next hlt =>
        refine List.pairwise_cons.2 ⟨fun c hc => ?_, hm.1⟩
        rcases List.mem_cons.1 hc with rfl | hc
        · exact hlt
        · exact Nat.lt_trans hlt (hp.1 c hc)
      · split
        · next heq => subst heq; exact List.pairwise_cons.2 ⟨hp.1, hp.2⟩
        · next hge hne =>
          refine List.pairwise_cons.2 ⟨fun c hc => ?_, ih hrest⟩
          rcases Memory.mem_write hc with rfl | hc
          · show k < a
            omega
          · exact hp.1 c hc
  · rcases Memory.mem_write hc with rfl | hc
    · exact ha
    · exact hm.2 c hc

/-- A request keeps the chip's registers in canonical form. -/
theorem Chip.wf_apply {c : Chip} (hc : Memory.wf c.regs) (q : Request) : Memory.wf (c.apply q).regs := by
  cases q with
  | configure _ _ => exact hc
  | pointer _ _ => exact hc
  | write d a v => exact Memory.wf_write hc a.isLt v
  | read _ => exact hc

/-- R66, R80: an answer leaves the chip as it was or applies the request to it, and it carries a byte exactly for a READ
answered `ok`. -/
theorem Answer.resolve_cases {a : Answer} {q : Request} {c c' : Chip} {r : Result} (h : a.resolve q c = some (r, c')) :
    (∃ data, r = .ok data ∧ data.isSome = q.isRead ∧ (c' = c.apply q)) ∨
    (∃ e, r = .err e ∧ (c' = c ∨ c' = c.apply q)) := by
  cases a with
  | refChip =>
    simp only [Answer.resolve, Chip.reply] at h
    split at h
    · simp only [Option.some.injEq, Prod.mk.injEq] at h
      exact .inr ⟨_, h.1.symm, .inl h.2.symm⟩
    · cases q with
      | configure d sp => simp only [Option.some.injEq, Prod.mk.injEq] at h; exact .inl ⟨_, h.1.symm, rfl, h.2.symm⟩
      | pointer d a => simp only [Option.some.injEq, Prod.mk.injEq] at h; exact .inl ⟨_, h.1.symm, rfl, h.2.symm⟩
      | write d a v => simp only [Option.some.injEq, Prod.mk.injEq] at h; exact .inl ⟨_, h.1.symm, rfl, h.2.symm⟩
      | read d =>
        simp only [Option.map_eq_some_iff, Prod.mk.injEq] at h
        obtain ⟨p, -, h1, h2⟩ := h
        exact .inl ⟨_, h1.symm, rfl, h2.symm⟩
  | oracle t landed =>
    simp only [Answer.resolve, TResp.result, Option.some.injEq, Prod.mk.injEq] at h
    obtain ⟨h1, h2⟩ := h
    cases hok : t.ok with
    | true =>
      simp only [hok, if_true, Bool.true_or] at h1 h2
      refine .inl ⟨_, h1.symm, ?_, h2.symm⟩
      cases q.isRead <;> rfl
    | false =>
      simp only [hok, Bool.false_or] at h1 h2
      refine .inr ⟨_, h1.symm, ?_⟩
      cases landed
      · exact .inl h2.symm
      · exact .inr h2.symm

end Machine

end Sys2Proof
end

