-- ==== Sys2Proof/Laws/PerInstr.lean ====
section
/-! SUPPORT. Statements about every command, one lemma per constructor of `Instr`. -/

namespace Sys2Proof

namespace Laws

namespace EncodesLegal

/-- R74, R75: the word of the command passes the legality check. -/
def Statement (i : Instr) : Prop := legalWord (encode i) = true

theorem of_assembleWord {op : BitVec 4} {t : BitVec 2} {d3 d2 d1 d0 : Byte}
    (hop : [0x1#4, 0x2#4, 0x3#4, 0x4#4, 0x5#4, 0x6#4, 0x8#4, 0x9#4, 0xA#4, 0xB#4, 0xC#4].contains op = true)
    (ht : (if op == 0x3#4 || op == 0x9#4 then [0b00#2, 0b10#2, 0b11#2].contains t else t == 0b00#2) = true)
    (hz : ((!operandUnused op 0 || d0 == 0x00#8) && (!operandUnused op 1 || d1 == 0x00#8)
      && (!operandUnused op 2 || d2 == 0x00#8) && (!operandUnused op 3 || d3 == 0x00#8)) = true) :
    legalWord (Machine.assembleWord op t d3 d2 d1 d0) = true := by
  simp only [legalWord, opcodeAssigned, reservedZero, formatLegal, unusedZero, opField_assembleWord, fmtField_assembleWord,
    rsvField_assembleWord, opd3_assembleWord, opd2_assembleWord, opd1_assembleWord, opd0_assembleWord, hop, ht, hz]
  rfl

theorem bin2bcd (v : Byte) : Statement (.bin2bcd v) := of_assembleWord rfl rfl rfl
theorem bcd2bin (b : Byte) : Statement (.bcd2bin b) := of_assembleWord rfl rfl rfl
theorem enchours (h : Byte) (f : Fmt) : Statement (.enchours h f) := of_assembleWord rfl (by cases f <;> rfl) rfl
theorem dechours (b : Byte) : Statement (.dechours b) := of_assembleWord rfl rfl rfl
theorem encsec (s : Byte) : Statement (.encsec s) := of_assembleWord rfl rfl rfl
theorem decsec (b : Byte) : Statement (.decsec b) := of_assembleWord rfl rfl rfl
theorem init : Statement .init := of_assembleWord rfl rfl rfl
theorem settime (s m h : Byte) (f : Fmt) : Statement (.settime s m h f) :=
  of_assembleWord rfl (by cases f <;> rfl) rfl
theorem setdate (d w mo y : Byte) : Statement (.setdate d w mo y) := of_assembleWord rfl rfl rfl
theorem gettime : Statement .gettime := of_assembleWord rfl rfl rfl
theorem getdate : Statement .getdate := of_assembleWord rfl rfl rfl

end EncodesLegal

end Laws

end Sys2Proof
end

