-- ==== Sys2Proof/Laws/State.lean ====
section
/-! SUPPORT. What each shared operation does to each field of the state: one lemma per field per update. -/

namespace Sys2Proof

namespace Machine

/-! ### Acceptance latches the word and clears every working register (R100) -/

@[simp] theorem State.latch_fsm (w : CmdWord) (s : State) : (s.latch w).fsm = s.fsm := rfl
@[simp] theorem State.latch_cmd (w : CmdWord) (s : State) : (s.latch w).cmd = w := rfl
@[simp] theorem State.latch_stepIx (w : CmdWord) (s : State) : (s.latch w).stepIx = 0#3 := rfl
@[simp] theorem State.latch_res0 (w : CmdWord) (s : State) : (s.latch w).res0 = none := rfl
@[simp] theorem State.latch_res1 (w : CmdWord) (s : State) : (s.latch w).res1 = none := rfl
@[simp] theorem State.latch_res2 (w : CmdWord) (s : State) : (s.latch w).res2 = none := rfl
@[simp] theorem State.latch_res3 (w : CmdWord) (s : State) : (s.latch w).res3 = none := rfl
@[simp] theorem State.latch_rfmt (w : CmdWord) (s : State) : (s.latch w).rfmt = none := rfl
@[simp] theorem State.latch_status (w : CmdWord) (s : State) : (s.latch w).status = none := rfl
@[simp] theorem State.latch_err (w : CmdWord) (s : State) : (s.latch w).err = none := rfl
@[simp] theorem State.latch_chip (w : CmdWord) (s : State) : (s.latch w).chip = s.chip := rfl
@[simp] theorem State.latch_cmds (w : CmdWord) (s : State) : (s.latch w).cmds = s.cmds := rfl
@[simp] theorem State.latch_answers (w : CmdWord) (s : State) : (s.latch w).answers = s.answers := rfl
@[simp] theorem State.latch_rst (w : CmdWord) (s : State) : (s.latch w).rst = s.rst := rfl
@[simp] theorem State.latch_issued (w : CmdWord) (s : State) : (s.latch w).issued = s.issued := rfl
@[simp] theorem State.latch_delivered (w : CmdWord) (s : State) : (s.latch w).delivered = s.delivered := rfl

/-! ### Entry to DONE writes STATUS (R116) -/

@[simp] theorem State.finish_fsm (st : Status) (s : State) : (s.finish st).fsm = .done := rfl
@[simp] theorem State.finish_cmd (st : Status) (s : State) : (s.finish st).cmd = s.cmd := rfl
@[simp] theorem State.finish_stepIx (st : Status) (s : State) : (s.finish st).stepIx = s.stepIx := rfl
@[simp] theorem State.finish_res0 (st : Status) (s : State) : (s.finish st).res0 = s.res0 := rfl
@[simp] theorem State.finish_res1 (st : Status) (s : State) : (s.finish st).res1 = s.res1 := rfl
@[simp] theorem State.finish_res2 (st : Status) (s : State) : (s.finish st).res2 = s.res2 := rfl
@[simp] theorem State.finish_res3 (st : Status) (s : State) : (s.finish st).res3 = s.res3 := rfl
@[simp] theorem State.finish_rfmt (st : Status) (s : State) : (s.finish st).rfmt = s.rfmt := rfl
@[simp] theorem State.finish_status (st : Status) (s : State) : (s.finish st).status = some st := rfl
@[simp] theorem State.finish_err (st : Status) (s : State) : (s.finish st).err = s.err := rfl
@[simp] theorem State.finish_chip (st : Status) (s : State) : (s.finish st).chip = s.chip := rfl
@[simp] theorem State.finish_cmds (st : Status) (s : State) : (s.finish st).cmds = s.cmds := rfl
@[simp] theorem State.finish_answers (st : Status) (s : State) : (s.finish st).answers = s.answers := rfl
@[simp] theorem State.finish_rst (st : Status) (s : State) : (s.finish st).rst = s.rst := rfl
@[simp] theorem State.finish_issued (st : Status) (s : State) : (s.finish st).issued = s.issued := rfl
@[simp] theorem State.finish_delivered (st : Status) (s : State) : (s.finish st).delivered = s.delivered := rfl

/-! ### The TRANSPORT_ERROR ending (R123) -/

@[simp] theorem State.abort_fsm (e : TErr) (s : State) : (s.abort e).fsm = .done := rfl
@[simp] theorem State.abort_cmd (e : TErr) (s : State) : (s.abort e).cmd = s.cmd := rfl
@[simp] theorem State.abort_stepIx (e : TErr) (s : State) : (s.abort e).stepIx = s.stepIx := rfl
@[simp] theorem State.abort_res0 (e : TErr) (s : State) : (s.abort e).res0 = none := rfl
@[simp] theorem State.abort_res1 (e : TErr) (s : State) : (s.abort e).res1 = none := rfl
@[simp] theorem State.abort_res2 (e : TErr) (s : State) : (s.abort e).res2 = none := rfl
@[simp] theorem State.abort_res3 (e : TErr) (s : State) : (s.abort e).res3 = none := rfl
@[simp] theorem State.abort_rfmt (e : TErr) (s : State) : (s.abort e).rfmt = none := rfl
@[simp] theorem State.abort_status (e : TErr) (s : State) : (s.abort e).status = some .transportError := rfl
@[simp] theorem State.abort_err (e : TErr) (s : State) : (s.abort e).err = some e := rfl
@[simp] theorem State.abort_chip (e : TErr) (s : State) : (s.abort e).chip = s.chip := rfl
@[simp] theorem State.abort_cmds (e : TErr) (s : State) : (s.abort e).cmds = s.cmds := rfl
@[simp] theorem State.abort_answers (e : TErr) (s : State) : (s.abort e).answers = s.answers := rfl
@[simp] theorem State.abort_rst (e : TErr) (s : State) : (s.abort e).rst = s.rst := rfl
@[simp] theorem State.abort_issued (e : TErr) (s : State) : (s.abort e).issued = s.issued := rfl
@[simp] theorem State.abort_delivered (e : TErr) (s : State) : (s.abort e).delivered = s.delivered := rfl

/-! ### The ILLEGAL_COMMAND ending (R118) -/

@[simp] theorem State.refuseIllegal_fsm (w : CmdWord) (s : State) : (s.refuseIllegal w).fsm = .done := rfl
@[simp] theorem State.refuseIllegal_cmd (w : CmdWord) (s : State) : (s.refuseIllegal w).cmd = w := rfl
@[simp] theorem State.refuseIllegal_stepIx (w : CmdWord) (s : State) : (s.refuseIllegal w).stepIx = 0#3 := rfl
@[simp] theorem State.refuseIllegal_res0 (w : CmdWord) (s : State) : (s.refuseIllegal w).res0 = none := rfl
@[simp] theorem State.refuseIllegal_res1 (w : CmdWord) (s : State) : (s.refuseIllegal w).res1 = none := rfl
@[simp] theorem State.refuseIllegal_res2 (w : CmdWord) (s : State) : (s.refuseIllegal w).res2 = none := rfl
@[simp] theorem State.refuseIllegal_res3 (w : CmdWord) (s : State) : (s.refuseIllegal w).res3 = none := rfl
@[simp] theorem State.refuseIllegal_rfmt (w : CmdWord) (s : State) : (s.refuseIllegal w).rfmt = none := rfl
@[simp] theorem State.refuseIllegal_status (w : CmdWord) (s : State) : (s.refuseIllegal w).status = some .illegalCommand := rfl
@[simp] theorem State.refuseIllegal_err (w : CmdWord) (s : State) : (s.refuseIllegal w).err = none := rfl
@[simp] theorem State.refuseIllegal_chip (w : CmdWord) (s : State) : (s.refuseIllegal w).chip = s.chip := rfl
@[simp] theorem State.refuseIllegal_cmds (w : CmdWord) (s : State) : (s.refuseIllegal w).cmds = s.cmds := rfl
@[simp] theorem State.refuseIllegal_answers (w : CmdWord) (s : State) : (s.refuseIllegal w).answers = s.answers := rfl
@[simp] theorem State.refuseIllegal_rst (w : CmdWord) (s : State) : (s.refuseIllegal w).rst = s.rst := rfl
@[simp] theorem State.refuseIllegal_issued (w : CmdWord) (s : State) : (s.refuseIllegal w).issued = s.issued := rfl
@[simp] theorem State.refuseIllegal_delivered (w : CmdWord) (s : State) : (s.refuseIllegal w).delivered = s.delivered := rfl

/-! ### The response is taken (R104) -/

@[simp] theorem State.respond_fsm (s : State) : (s.respond).fsm = .idle := rfl
@[simp] theorem State.respond_cmd (s : State) : (s.respond).cmd = s.cmd := rfl
@[simp] theorem State.respond_stepIx (s : State) : (s.respond).stepIx = s.stepIx := rfl
@[simp] theorem State.respond_res0 (s : State) : (s.respond).res0 = s.res0 := rfl
@[simp] theorem State.respond_res1 (s : State) : (s.respond).res1 = s.res1 := rfl
@[simp] theorem State.respond_res2 (s : State) : (s.respond).res2 = s.res2 := rfl
@[simp] theorem State.respond_res3 (s : State) : (s.respond).res3 = s.res3 := rfl
@[simp] theorem State.respond_rfmt (s : State) : (s.respond).rfmt = s.rfmt := rfl
@[simp] theorem State.respond_status (s : State) : (s.respond).status = s.status := rfl
@[simp] theorem State.respond_err (s : State) : (s.respond).err = s.err := rfl
@[simp] theorem State.respond_chip (s : State) : (s.respond).chip = s.chip := rfl
@[simp] theorem State.respond_cmds (s : State) : (s.respond).cmds = s.cmds := rfl
@[simp] theorem State.respond_answers (s : State) : (s.respond).answers = s.answers := rfl
@[simp] theorem State.respond_rst (s : State) : (s.respond).rst = s.rst := rfl
@[simp] theorem State.respond_issued (s : State) : (s.respond).issued = s.issued := rfl
@[simp] theorem State.respond_delivered (s : State) : (s.respond).delivered = s.delivered ++ [s.response] := rfl

/-! ### The request is taken (R102) -/

@[simp] theorem State.takeRequest_fsm (q : Request) (s : State) : (s.takeRequest q).fsm = .wait := rfl
@[simp] theorem State.takeRequest_cmd (q : Request) (s : State) : (s.takeRequest q).cmd = s.cmd := rfl
@[simp] theorem State.takeRequest_stepIx (q : Request) (s : State) : (s.takeRequest q).stepIx = s.stepIx := rfl
@[simp] theorem State.takeRequest_res0 (q : Request) (s : State) : (s.takeRequest q).res0 = s.res0 := rfl
@[simp] theorem State.takeRequest_res1 (q : Request) (s : State) : (s.takeRequest q).res1 = s.res1 := rfl
@[simp] theorem State.takeRequest_res2 (q : Request) (s : State) : (s.takeRequest q).res2 = s.res2 := rfl
@[simp] theorem State.takeRequest_res3 (q : Request) (s : State) : (s.takeRequest q).res3 = s.res3 := rfl
@[simp] theorem State.takeRequest_rfmt (q : Request) (s : State) : (s.takeRequest q).rfmt = s.rfmt := rfl
@[simp] theorem State.takeRequest_status (q : Request) (s : State) : (s.takeRequest q).status = s.status := rfl
@[simp] theorem State.takeRequest_err (q : Request) (s : State) : (s.takeRequest q).err = s.err := rfl
@[simp] theorem State.takeRequest_chip (q : Request) (s : State) : (s.takeRequest q).chip = s.chip := rfl
@[simp] theorem State.takeRequest_cmds (q : Request) (s : State) : (s.takeRequest q).cmds = s.cmds := rfl
@[simp] theorem State.takeRequest_answers (q : Request) (s : State) : (s.takeRequest q).answers = s.answers := rfl
@[simp] theorem State.takeRequest_rst (q : Request) (s : State) : (s.takeRequest q).rst = s.rst := rfl
@[simp] theorem State.takeRequest_issued (q : Request) (s : State) : (s.takeRequest q).issued = s.issued ++ [q] := rfl
@[simp] theorem State.takeRequest_delivered (q : Request) (s : State) : (s.takeRequest q).delivered = s.delivered := rfl

/-! ### On to the next request (R103) -/

@[simp] theorem State.advance_fsm (s : State) : (s.advance).fsm = .issue := rfl
@[simp] theorem State.advance_cmd (s : State) : (s.advance).cmd = s.cmd := rfl
@[simp] theorem State.advance_stepIx (s : State) : (s.advance).stepIx = s.stepIx + 1#3 := rfl
@[simp] theorem State.advance_res0 (s : State) : (s.advance).res0 = s.res0 := rfl
@[simp] theorem State.advance_res1 (s : State) : (s.advance).res1 = s.res1 := rfl
@[simp] theorem State.advance_res2 (s : State) : (s.advance).res2 = s.res2 := rfl
@[simp] theorem State.advance_res3 (s : State) : (s.advance).res3 = s.res3 := rfl
@[simp] theorem State.advance_rfmt (s : State) : (s.advance).rfmt = s.rfmt := rfl
@[simp] theorem State.advance_status (s : State) : (s.advance).status = s.status := rfl
@[simp] theorem State.advance_err (s : State) : (s.advance).err = s.err := rfl
@[simp] theorem State.advance_chip (s : State) : (s.advance).chip = s.chip := rfl
@[simp] theorem State.advance_cmds (s : State) : (s.advance).cmds = s.cmds := rfl
@[simp] theorem State.advance_answers (s : State) : (s.advance).answers = s.answers := rfl
@[simp] theorem State.advance_rst (s : State) : (s.advance).rst = s.rst := rfl
@[simp] theorem State.advance_issued (s : State) : (s.advance).issued = s.issued := rfl
@[simp] theorem State.advance_delivered (s : State) : (s.advance).delivered = s.delivered := rfl

/-! ### Reset (R137) -/

@[simp] theorem State.hardReset_fsm (landed : Bool) (s : State) : (s.hardReset landed).fsm = .idle := rfl
@[simp] theorem State.hardReset_cmd (landed : Bool) (s : State) : (s.hardReset landed).cmd = 0x0000000000#40 := rfl
@[simp] theorem State.hardReset_stepIx (landed : Bool) (s : State) : (s.hardReset landed).stepIx = 0#3 := rfl
@[simp] theorem State.hardReset_res0 (landed : Bool) (s : State) : (s.hardReset landed).res0 = none := rfl
@[simp] theorem State.hardReset_res1 (landed : Bool) (s : State) : (s.hardReset landed).res1 = none := rfl
@[simp] theorem State.hardReset_res2 (landed : Bool) (s : State) : (s.hardReset landed).res2 = none := rfl
@[simp] theorem State.hardReset_res3 (landed : Bool) (s : State) : (s.hardReset landed).res3 = none := rfl
@[simp] theorem State.hardReset_rfmt (landed : Bool) (s : State) : (s.hardReset landed).rfmt = none := rfl
@[simp] theorem State.hardReset_status (landed : Bool) (s : State) : (s.hardReset landed).status = none := rfl
@[simp] theorem State.hardReset_err (landed : Bool) (s : State) : (s.hardReset landed).err = none := rfl
@[simp] theorem State.hardReset_chip (landed : Bool) (s : State) : (s.hardReset landed).chip = s.chipAfterReset landed := rfl
@[simp] theorem State.hardReset_cmds (landed : Bool) (s : State) : (s.hardReset landed).cmds = s.cmds := rfl
@[simp] theorem State.hardReset_answers (landed : Bool) (s : State) : (s.hardReset landed).answers = s.answers := rfl
@[simp] theorem State.hardReset_rst (landed : Bool) (s : State) : (s.hardReset landed).rst = s.rst := rfl
@[simp] theorem State.hardReset_issued (landed : Bool) (s : State) : (s.hardReset landed).issued = s.issued := rfl
@[simp] theorem State.hardReset_delivered (landed : Bool) (s : State) : (s.hardReset landed).delivered = s.delivered := rfl

/-! ### The byte of a READ goes to a result field and nowhere else (R106) -/

@[simp] theorem Act.keeps_fsm (a : Act) (b : Byte) (s : State) : (a.run b s).fsm = s.fsm := by cases a <;> rfl
@[simp] theorem Act.keeps_cmd (a : Act) (b : Byte) (s : State) : (a.run b s).cmd = s.cmd := by cases a <;> rfl
@[simp] theorem Act.keeps_stepIx (a : Act) (b : Byte) (s : State) : (a.run b s).stepIx = s.stepIx := by cases a <;> rfl
@[simp] theorem Act.keeps_status (a : Act) (b : Byte) (s : State) : (a.run b s).status = s.status := by cases a <;> rfl
@[simp] theorem Act.keeps_err (a : Act) (b : Byte) (s : State) : (a.run b s).err = s.err := by cases a <;> rfl
@[simp] theorem Act.keeps_chip (a : Act) (b : Byte) (s : State) : (a.run b s).chip = s.chip := by cases a <;> rfl
@[simp] theorem Act.keeps_cmds (a : Act) (b : Byte) (s : State) : (a.run b s).cmds = s.cmds := by cases a <;> rfl
@[simp] theorem Act.keeps_answers (a : Act) (b : Byte) (s : State) : (a.run b s).answers = s.answers := by cases a <;> rfl
@[simp] theorem Act.keeps_rst (a : Act) (b : Byte) (s : State) : (a.run b s).rst = s.rst := by cases a <;> rfl
@[simp] theorem Act.keeps_issued (a : Act) (b : Byte) (s : State) : (a.run b s).issued = s.issued := by cases a <;> rfl
@[simp] theorem Act.keeps_delivered (a : Act) (b : Byte) (s : State) : (a.run b s).delivered = s.delivered := by cases a <;> rfl

@[simp] theorem Micro.deliver_fsm (m : Micro) (d : Option Byte) (s : State) : (m.deliver d s).fsm = s.fsm := by
  cases m <;> cases d <;> simp [Micro.deliver]
@[simp] theorem Micro.deliver_cmd (m : Micro) (d : Option Byte) (s : State) : (m.deliver d s).cmd = s.cmd := by
  cases m <;> cases d <;> simp [Micro.deliver]
@[simp] theorem Micro.deliver_stepIx (m : Micro) (d : Option Byte) (s : State) : (m.deliver d s).stepIx = s.stepIx := by
  cases m <;> cases d <;> simp [Micro.deliver]
@[simp] theorem Micro.deliver_status (m : Micro) (d : Option Byte) (s : State) : (m.deliver d s).status = s.status := by
  cases m <;> cases d <;> simp [Micro.deliver]
@[simp] theorem Micro.deliver_err (m : Micro) (d : Option Byte) (s : State) : (m.deliver d s).err = s.err := by
  cases m <;> cases d <;> simp [Micro.deliver]
@[simp] theorem Micro.deliver_chip (m : Micro) (d : Option Byte) (s : State) : (m.deliver d s).chip = s.chip := by
  cases m <;> cases d <;> simp [Micro.deliver]
@[simp] theorem Micro.deliver_cmds (m : Micro) (d : Option Byte) (s : State) : (m.deliver d s).cmds = s.cmds := by
  cases m <;> cases d <;> simp [Micro.deliver]
@[simp] theorem Micro.deliver_answers (m : Micro) (d : Option Byte) (s : State) : (m.deliver d s).answers = s.answers := by
  cases m <;> cases d <;> simp [Micro.deliver]
@[simp] theorem Micro.deliver_rst (m : Micro) (d : Option Byte) (s : State) : (m.deliver d s).rst = s.rst := by
  cases m <;> cases d <;> simp [Micro.deliver]
@[simp] theorem Micro.deliver_issued (m : Micro) (d : Option Byte) (s : State) : (m.deliver d s).issued = s.issued := by
  cases m <;> cases d <;> simp [Micro.deliver]
@[simp] theorem Micro.deliver_delivered (m : Micro) (d : Option Byte) (s : State) : (m.deliver d s).delivered = s.delivered := by
  cases m <;> cases d <;> simp [Micro.deliver]

@[simp] theorem State.succeed_cmd (p : List Micro) (m : Micro) (d : Option Byte) (s : State) :
    (s.succeed p m d).cmd = s.cmd := by
  unfold State.succeed; split <;> simp
@[simp] theorem State.succeed_err (p : List Micro) (m : Micro) (d : Option Byte) (s : State) :
    (s.succeed p m d).err = s.err := by
  unfold State.succeed; split <;> simp
@[simp] theorem State.succeed_chip (p : List Micro) (m : Micro) (d : Option Byte) (s : State) :
    (s.succeed p m d).chip = s.chip := by
  unfold State.succeed; split <;> simp
@[simp] theorem State.succeed_cmds (p : List Micro) (m : Micro) (d : Option Byte) (s : State) :
    (s.succeed p m d).cmds = s.cmds := by
  unfold State.succeed; split <;> simp
@[simp] theorem State.succeed_answers (p : List Micro) (m : Micro) (d : Option Byte) (s : State) :
    (s.succeed p m d).answers = s.answers := by
  unfold State.succeed; split <;> simp
@[simp] theorem State.succeed_rst (p : List Micro) (m : Micro) (d : Option Byte) (s : State) :
    (s.succeed p m d).rst = s.rst := by
  unfold State.succeed; split <;> simp
@[simp] theorem State.succeed_issued (p : List Micro) (m : Micro) (d : Option Byte) (s : State) :
    (s.succeed p m d).issued = s.issued := by
  unfold State.succeed; split <;> simp
@[simp] theorem State.succeed_delivered (p : List Micro) (m : Micro) (d : Option Byte) (s : State) :
    (s.succeed p m d).delivered = s.delivered := by
  unfold State.succeed; split <;> simp

end Machine

end Sys2Proof
end

