-- ==== Sys2Proof/Laws/Step.lean ====
section
/-! SUPPORT. What a step can do, said once: the meaning of a command by its kind, one inversion lemma for each shared
operation, and one for `step`. -/

namespace Sys2Proof

namespace Machine

/-- What a codec command writes into the result fields (R94 to R99). -/
def codecWrite : Instr → State → State
  | .bin2bcd v, t => { t with res0 := some (bin2bcd v) }
  | .bcd2bin b, t => { t with res0 := some (bcd2bin b) }
  | .enchours h f, t => { t with res0 := some (encHours h f) }
  | .dechours b, t => { t with res0 := some (decHours b).1, rfmt := some (decHours b).2 }
  | .encsec s, t => { t with res0 := some (encSec s) }
  | .decsec b, t => { t with res0 := some (decSec b) }
  | .init, t => t
  | .settime _ _ _ _, t => t
  | .setdate _ _ _ _, t => t
  | .gettime, t => t
  | .getdate, t => t

theorem exec_codec {i : Instr} (h : sequenced i = false) (s : State) : exec i s = codecStep i (codecWrite i) s := by
  cases i <;> first | rfl | simp [sequenced] at h

theorem exec_sequenced {i : Instr} (h : sequenced i = true) (s : State) : exec i s = sequencedStep i (program i) s := by
  cases i <;> first | rfl | simp [sequenced] at h

theorem program_codec {i : Instr} (h : sequenced i = false) : program i = [] := by
  cases i <;> first | rfl | simp [sequenced] at h

/-- Every row of every micro-program is in the contract of a request. -/
theorem program_inContract {i : Instr} {m : Micro} (h : m ∈ program i) : requestInContract m.request := by
  cases i <;> simp only [program, List.not_mem_nil] at h
  case init =>
    simp only [initProgram, memRead, List.cons_append, List.nil_append, List.mem_cons, List.not_mem_nil, or_false] at h
    rcases h with rfl | rfl | rfl | rfl <;> simp [Micro.request, requestInContract, Config.regSec, clockHalt]
  case settime s mi ho f =>
    simp only [settimeProgram, List.mem_cons, List.not_mem_nil, or_false] at h
    rcases h with rfl | rfl | rfl <;>
      simp [Micro.request, requestInContract, Config.regSec, Config.regMin, Config.regHour]
  case setdate d w mo y =>
    simp only [setdateProgram, List.mem_cons, List.not_mem_nil, or_false] at h
    rcases h with rfl | rfl | rfl | rfl <;>
      simp [Micro.request, requestInContract, Config.regSec, Config.regDate, Config.regWday, Config.regMonth,
        Config.regYear]
  case gettime =>
    simp only [gettimeProgram, memRead, List.cons_append, List.nil_append, List.mem_cons, List.not_mem_nil, or_false] at h
    rcases h with rfl | rfl | rfl | rfl | rfl | rfl <;>
      simp [Micro.request, requestInContract, Config.regSec, Config.regMin, Config.regHour]
  case getdate =>
    simp only [getdateProgram, memRead, List.cons_append, List.nil_append, List.mem_cons, List.not_mem_nil, or_false] at h
    rcases h with rfl | rfl | rfl | rfl | rfl | rfl | rfl | rfl <;>
      simp [Micro.request, requestInContract, Config.regDate, Config.regWday, Config.regMonth, Config.regYear]

/-- A codec command answers a next state only by accepting or by having its response taken (R101). -/
theorem codecStep_cases {i : Instr} {f : State → State} {s t : State} (h : codecStep i f s = .next t) :
    (s.fsm = .idle ∧ t = (f (s.latch (encode i))).finish .ok) ∨ (s.fsm = .done ∧ t = s.respond) := by
  unfold codecStep at h
  split at h
  · next hf => exact .inl ⟨hf, by injection h with h; exact h.symm⟩
  · simp at h
  · simp at h
  · next hf => exact .inr ⟨hf, by injection h with h; exact h.symm⟩

/-- R103: what the wait for a response can end in. -/
theorem awaitResponse_cases {p : List Micro} {m : Micro} {s t : State} (h : awaitResponse p m s = .next t) :
    (s.answers = [] ∧ t = s) ∨
    (∃ a rest e c, s.answers = a :: rest ∧ a.resolve m.request s.chip = some (.err e, c) ∧
      t = { s with answers := rest, chip := c }.abort e) ∨
    (∃ a rest data c, s.answers = a :: rest ∧ a.resolve m.request s.chip = some (.ok data, c) ∧
      t = { s with answers := rest, chip := c }.succeed p m data) := by
  unfold awaitResponse at h
  split at h
  · next ha => exact .inl ⟨ha, by injection h with h; exact h.symm⟩
  · next a rest ha =>
    split at h
    · simp at h
    · next e c hr => exact .inr (.inl ⟨a, rest, e, c, ha, hr, by injection h with h; exact h.symm⟩)
    · next data c hr => exact .inr (.inr ⟨a, rest, data, c, ha, hr, by injection h with h; exact h.symm⟩)

/-- R105: what one handshake of a sequenced command can end in. -/
theorem sequencedStep_cases {i : Instr} {p : List Micro} {s t : State} (h : sequencedStep i p s = .next t) :
    (s.fsm = .idle ∧ t = { s.latch (encode i) with fsm := .issue }) ∨
    (∃ m, s.fsm = .issue ∧ p[s.stepIx.toNat]? = some m ∧ t = s.takeRequest m.request) ∨
    (∃ m, s.fsm = .wait ∧ p[s.stepIx.toNat]? = some m ∧ awaitResponse p m s = .next t) ∨
    (s.fsm = .done ∧ t = s.respond) := by
  unfold sequencedStep at h
  split at h
  · next hf => exact .inl ⟨hf, by injection h with h; exact h.symm⟩
  · next hf =>
    split at h
    · simp at h
    · next m hm => exact .inr (.inl ⟨m, hf, hm, by injection h with h; exact h.symm⟩)
  · next hf =>
    split at h
    · simp at h
    · next m hm => exact .inr (.inr (.inl ⟨m, hf, hm, h⟩))
  · next hf => exact .inr (.inr (.inr ⟨hf, by injection h with h; exact h.symm⟩))

/-- R105: what one handshake of any command can end in. A codec command has an empty micro-program, so only the first
two and the last case are its own. -/
theorem exec_cases {i : Instr} {s t : State} (h : exec i s = .next t) :
    (s.fsm = .idle ∧ sequenced i = false ∧ t = (codecWrite i (s.latch (encode i))).finish .ok) ∨
    (s.fsm = .idle ∧ sequenced i = true ∧ t = { s.latch (encode i) with fsm := .issue }) ∨
    (∃ m, s.fsm = .issue ∧ (program i)[s.stepIx.toNat]? = some m ∧ t = s.takeRequest m.request) ∨
    (∃ m, s.fsm = .wait ∧ (program i)[s.stepIx.toNat]? = some m ∧ awaitResponse (program i) m s = .next t) ∨
    (s.fsm = .done ∧ t = s.respond) := by
  cases hi : sequenced i with
  | false =>
    rw [exec_codec hi] at h
    rcases codecStep_cases h with ⟨hf, ht⟩ | ⟨hf, ht⟩
    · exact .inl ⟨hf, rfl, ht⟩
    · exact .inr (.inr (.inr (.inr ⟨hf, ht⟩)))
  | true =>
    rw [exec_sequenced hi] at h
    rcases sequencedStep_cases h with ⟨hf, ht⟩ | h | h | h
    · exact .inr (.inl ⟨hf, rfl, ht⟩)
    · exact .inr (.inr (.inl h))
    · exact .inr (.inr (.inr (.inl h)))
    · exact .inr (.inr (.inr (.inr h)))

/-- R105: what one handshake of the block can be. -/
theorem handshake_cases {s t : State} (h : handshake s = .next t) :
    (s.fsm = .idle ∧ s.cmds = [] ∧ t = s) ∨
    (∃ w rest i, s.fsm = .idle ∧ s.cmds = w :: rest ∧ decode w = .ok i ∧ exec i { s with cmds := rest } = .next t) ∨
    (∃ w rest x, s.fsm = .idle ∧ s.cmds = w :: rest ∧ decode w = .error x ∧
      t = State.refuseIllegal w { s with cmds := rest }) ∨
    (∃ i, s.running ∧ decode s.cmd = .ok i ∧ exec i s = .next t) ∨
    (s.fsm = .done ∧ t = s.respond) := by
  have hrun : ∀ {u : State}, s.running → resumeHeld s = .next u → ∃ i, s.running ∧ decode s.cmd = .ok i ∧ exec i s = .next u := by
    intro u hr hu
    unfold resumeHeld at hu
    split at hu
    · next i hi => exact ⟨i, hr, hi, hu⟩
    · simp at hu
  unfold handshake at h
  split at h
  · next hf =>
    unfold acceptNext at h
    split at h
    · next hc => exact .inl ⟨hf, hc, by injection h with h; exact h.symm⟩
    · next w rest hc =>
      split at h
      · next i hi => exact .inr (.inl ⟨w, rest, i, hf, hc, hi, h⟩)
      · next x hx => exact .inr (.inr (.inl ⟨w, rest, x, hf, hc, hx, by injection h with h; exact h.symm⟩))
  · next hf => exact .inr (.inr (.inr (.inl (hrun (.inl hf) h))))
  · next hf => exact .inr (.inr (.inr (.inl (hrun (.inr hf) h))))
  · next hf => exact .inr (.inr (.inr (.inr ⟨hf, by injection h with h; exact h.symm⟩)))

/-- R105, R137: what one step can be. -/
theorem step_cases {s t : State} (h : step s = .next t) :
    (∃ landed rest, s.rst = .high landed :: rest ∧ t = State.hardReset landed { s with rst := rest }) ∨
    (rstHigh s = false ∧ handshake { s with rst := s.rst.tail } = .next t) := by
  unfold step transition at h
  split at h
  · next landed rest hr => exact .inl ⟨landed, rest, hr, by injection h with h; exact h.symm⟩
  · next rest hr => exact .inr ⟨by simp [rstHigh, hr], by rw [hr]; exact h⟩
  · next hr =>
    refine .inr ⟨by simp [rstHigh, hr], ?_⟩
    have : ({ s with rst := s.rst.tail } : State) = s := by cases s; simp_all
    rw [this]
    exact h

/-- R19, R25: a state whose CMD decodes stands at a row of that command's micro-program. -/
theorem currentMicro_of_decode {w : CmdWord} {k : BitVec 3} {i : Instr} (h : decode w = .ok i) :
    currentMicro w k = (program i)[k.toNat]? := by
  unfold currentMicro
  rw [h]

end Machine

end Sys2Proof
end

