-- ==== Sys2Proof/Tests/Slice0.lean ====
section
/-! SUPPORT. Tests of the model, and a witness for the hypotheses of each statement. Every expected value is from the
spec: 95_test_vectors.md, the examples of 30_encoding.md and 40_codec.md, or a hand calculation from the rule a comment
names. -/

namespace Sys2Proof.Tests

open Sys2Proof Sys2Proof.Machine

/-- One field of the next state, `none` where the machine stops. -/
def field {α : Type} (o : Out) (f : State → α) : Option α :=
  match o with
  | .next t => some (f t)
  | .fault _ => none
  | .refused _ => none

/-- A word on the command port of the block after reset. -/
def withWord (w : CmdWord) : State := { State.reset with cmds := [w] }

/-- The block in ISSUE at a row of the command in `w`. -/
def inIssue (w : CmdWord) (k : BitVec 3) : State := { State.reset with fsm := .issue, cmd := w, stepIx := k }

/-- The block in WAIT at a row of the command in `w`. -/
def inWait (w : CmdWord) (k : BitVec 3) (as : List Answer) : State :=
  { State.reset with fsm := .wait, cmd := w, stepIx := k, answers := as }

/-- The block in DONE with a result. -/
def inDone : State := { State.reset with fsm := .done, status := some .ok, res0 := some 0x59#8 }

/-- The oracle answers `ok` with a byte. -/
def okWith (b : Byte) : Answer := .oracle ⟨true, 0#Config.errW, b⟩ false

/-- The oracle answers with an error. -/
def failed (landed : Bool) : Answer := .oracle ⟨false, 0#Config.errW, 0x00#8⟩ landed

/-! ### Decoding: words written out bit by bit from 30_encoding.md R70, R72, R73, R74 -/

/-- `OP 0001 FMT 00 RSV 00`, three zero bytes, 59. -/
theorem test_decode_bin2bcd :
    decode 0b0001000000000000000000000000000000111011#40 = .ok (.bin2bcd 59#8) := by decide

theorem test_decode_bcd2bin :
    decode 0b0010000000000000000000000000000001011001#40 = .ok (.bcd2bin 0x59#8) := by decide

/-- `OP 0011 FMT 11 RSV 00`, three zero bytes, 10. -/
theorem test_decode_enchours_pm :
    decode 0b0011110000000000000000000000000000001010#40 = .ok (.enchours 10#8 .pm) := by decide

/-- `FMT 10` is AM. -/
theorem test_decode_enchours_am :
    decode 0b0011100000000000000000000000000000001100#40 = .ok (.enchours 12#8 .am) := by decide

theorem test_decode_dechours :
    decode 0b0100000000000000000000000000000001110000#40 = .ok (.dechours 0x70#8) := by decide

theorem test_decode_encsec :
    decode 0b0101000000000000000000000000000000000001#40 = .ok (.encsec 1#8) := by decide

theorem test_decode_decsec :
    decode 0b0110000000000000000000000000000011011001#40 = .ok (.decsec 0xD9#8) := by decide

theorem test_decode_init :
    decode 0b1000000000000000000000000000000000000000#40 = .ok .init := by decide

/-- `OP 1001 FMT 11 RSV 00`, zero, hours 10, minutes 25, seconds 1. -/
theorem test_decode_settime :
    decode 0b1001110000000000000010100001100100000001#40 = .ok (.settime 1#8 25#8 10#8 .pm) := by decide

/-- `OP 1010 FMT 00 RSV 00`, year 22, month 12, weekday 3, day 27. -/
theorem test_decode_setdate :
    decode 0b1010000000010110000011000000001100011011#40 = .ok (.setdate 27#8 3#8 12#8 22#8) := by decide

theorem test_decode_gettime :
    decode 0b1011000000000000000000000000000000000000#40 = .ok .gettime := by decide

theorem test_decode_getdate :
    decode 0b1100000000000000000000000000000000000000#40 = .ok .getdate := by decide

/-- R82's example. -/
theorem test_encode_settime : encode (.settime 1#8 25#8 10#8 .pm) = 0x9C000A1901#40 := by decide

/-- 95_test_vectors.md P1. -/
theorem test_encode_setdate : encode (.setdate 27#8 3#8 12#8 22#8) = 0xA0160C031B#40 := by decide

/-! ### Ill-formed words, one for each check (95_test_vectors.md section 2.4 and 30_encoding.md R76) -/

theorem test_illformed_opcode : [0x0#4, 0x7#4, 0xD#4, 0xE#4, 0xF#4].all
    (fun op => !opcodeAssigned (assembleWord op 0#2 0#8 0#8 0#8 0#8)) = true := by decide

theorem test_illformed_reserved : reservedZero 0x8100000000#40 = false ∧ reservedZero 0x8200000000#40 = false := by decide

/-- Format 0b01 is illegal on ENCHOURS and SETTIME, and 0b10 on BIN2BCD. -/
theorem test_illformed_format : formatLegal 0x3400000005#40 = false ∧ formatLegal 0x94000A1901#40 = false ∧
    formatLegal 0x1800000005#40 = false := by decide

/-- An unused operand byte at each of the four places. -/
theorem test_illformed_operand : unusedZero 0xB000000001#40 = false ∧ unusedZero 0x1000000100#40 = false ∧
    unusedZero 0x4000010000#40 = false ∧ unusedZero 0x9001000000#40 = false := by decide

/-- The four refusals of the decoder. -/
theorem test_decode_refuses : decode 0x0000000000#40 = .error .reservedOpcode ∧
    decode 0x8100000000#40 = .error .reservedBits ∧ decode 0x94000A1901#40 = .error .formatTag ∧
    decode 0xC001000000#40 = .error .unusedOperand := by decide

theorem test_legalWord_refuses : legalWord 0x0000000000#40 = false ∧ legalWord 0x8100000000#40 = false ∧
    legalWord 0x94000A1901#40 = false ∧ legalWord 0xC001000000#40 = false := by decide

/-! ### Fetch -/

theorem test_table_word : decodeTableWord 40 0x9C000A1901 = some (.settime 1#8 25#8 10#8 .pm) ∧
    decodeTableWord 40 0x0000000000 = none := by decide

/-- The very next step after `withFetchWord` accepts the word (R100). -/
theorem test_fetch : field (step (State.reset.withFetchWord 40 0x100000003B)) (fun t => (t.fsm, t.cmd, t.res0)) =
    some (.done, 0x100000003B#40, some 0x59#8) := by decide

/-! ### Codec commands (95_test_vectors.md sections 1 and 2) -/

theorem test_bin2bcd_59 : field (step (withWord 0x100000003B#40)) (fun t => (t.res0, t.status)) =
    some (some 0x59#8, some .ok) := by decide

/-- R94: 100 is not clamped and no error. -/
theorem test_bin2bcd_100 : field (step (withWord 0x1000000064#40)) (fun t => (t.res0, t.status)) =
    some (some (Config.bin2bcdOor 100#8), some .ok) := rfl

theorem test_bcd2bin_59 : field (step (withWord 0x2000000059#40)) State.res0 = some (some 59#8) := by decide

/-- R95: an invalid byte is no error. -/
theorem test_bcd2bin_invalid : field (step (withWord 0x200000000A#40)) (fun t => (t.res0, t.status)) =
    some (some (Config.bcd2binInvalid 0x0A#8), some .ok) := rfl

/-- R88: bit 5 of 0x20 is cleared in AM. -/
theorem test_enchours_20_am : field (step (withWord 0x3800000014#40)) State.res0 = some (some 0x40#8) := by decide

/-- E4: bit 5 is kept in 24-hour mode. -/
theorem test_enchours_23_h24 : field (step (withWord 0x3000000017#40)) State.res0 = some (some 0x23#8) := by decide

theorem test_dechours_23 : field (step (withWord 0x4000000023#40)) (fun t => (t.res0, t.rfmt)) =
    some (some 23#8, some .h24) := by decide

/-- R89: bit 7 is not cleared. -/
theorem test_dechours_e5 : field (step (withWord 0x40000000E5#40)) (fun t => (t.res0, t.rfmt)) =
    some (some 85#8, some .pm) := by decide

/-- R98: bit 7 of 0x80 is cleared. -/
theorem test_encsec_80 : field (step (withWord 0x5000000050#40)) State.res0 = some (some 0x00#8) := by decide

theorem test_decsec_b7 : field (step (withWord 0x60000000B7#40)) State.res0 = some (some 37#8) := by decide

/-! ### Sequenced commands (95_test_vectors.md sections 2.5 to 2.7) -/

/-- `INIT` with 0x80 read back: halted, and no error. -/
theorem test_init_halted : field (step (inWait 0x8000000000#40 3#3 [okWith 0x80#8])) (fun t => (t.fsm, t.status, t.res0)) =
    some (.done, some .ok, some 0x01#8) := by decide

/-- `INIT` with 0x7F read back: bits 6 to 0 are ignored. -/
theorem test_init_running : field (step (inWait 0x8000000000#40 3#3 [okWith 0x7F#8])) State.res0 =
    some (some 0x00#8) := by decide

/-- `SETTIME 75, 60, 13, PM`: no range check. -/
theorem test_settime_hours : presentedRequest (inIssue (encode (.settime 75#8 60#8 13#8 .pm)) 2#3) =
    some (.write 0x68#7 0x02#8 0x73#8) := by decide

/-- P1: `SETTIME 1, 25, 10, PM`. -/
theorem test_settime_minutes : field (step (inIssue 0x9C000A1901#40 1#3)) (fun t => (t.fsm, t.issued)) =
    some (.wait, [.write 0x68#7 0x01#8 0x25#8]) := by decide

/-- P1: `SETDATE 27, 3, 12, 22` writes the weekday second. -/
theorem test_setdate_weekday : presentedRequest (inIssue 0xA0160C031B#40 1#3) = some (.write 0x68#7 0x03#8 0x03#8) := by
  decide

/-- Section 2.6, `SETDATE` failing at request 2: the register may have been written. -/
theorem test_setdate_aborts : field (step (inWait 0xA0160C031B#40 2#3 [failed true]))
    (fun t => (t.fsm, t.status, t.chip.regs)) = some (.done, some .transportError, [(5, 0x12#8)]) := by decide

/-- Section 2.5: `GETTIME` reading 0x52 at its last request. -/
theorem test_gettime_hours : field (step (inWait 0xB000000000#40 5#3 [okWith 0x52#8]))
    (fun t => (t.fsm, t.res2, t.rfmt)) = some (.done, some 12#8, some .am) := by decide

/-- Section 2.7: WAIT at STEP 1, `ok([0x01])`. -/
theorem test_gettime_seconds : field (step (inWait 0xB000000000#40 1#3 [okWith 0x01#8]))
    (fun t => (t.fsm, t.stepIx, t.res0)) = some (.issue, 2#3, some 1#8) := by decide

/-- Section 2.5: `GETDATE` reading 0x99 at its last request. -/
theorem test_getdate_year : field (step (inWait 0xC000000000#40 7#3 [okWith 0x99#8])) (fun t => (t.fsm, t.res3)) =
    some (.done, some 99#8) := by decide

/-- Section 2.7: a reset in WAIT; register 0x05 maybe written. -/
theorem test_reset_in_wait : field (step { inWait 0xA0160C031B#40 2#3 [] with rst := [.high true] })
    (fun t => (t.fsm, t.status, t.delivered.length, t.chip.regs)) = some (.idle, none, 0, [(5, 0x12#8)]) := by decide

/-- The reference chip: `INIT` reads back what it wrote (E7). -/
theorem test_refChip_read : field
    (step { inWait 0x8000000000#40 3#3 [.refChip] with chip := ⟨[(0, 0x00#8)], some 0x00#8⟩ })
    (fun t => (t.res0, t.chip.ptr)) = some (some 0x00#8, none) := by decide

/-- R82. -/
theorem test_asmText : asmText (.settime 1#8 25#8 10#8 .pm) = "SETTIME 1, 25, 10, PM" := by decide

/-- R77: `OK; 1, 25, 10, ⊥; PM`, the undriven byte being the fill's. -/
theorem test_response_word : Response.word 0x3AA000000#36
    ⟨some .ok, some .pm, none, some 10#8, some 25#8, some 1#8, none⟩ = 0x3AA0A1901#36 := by decide

/-! ### Witnesses: states and operands that meet the hypotheses of each statement -/

theorem witness_EncodeAfterDecode : decode 0x9C000A1901#40 = .ok (.settime 1#8 25#8 10#8 .pm) := by decide

theorem witness_DecoderAcceptsExactlyLegalWords : legalWord 0x3C0000000A#40 = true ∧ legalWord 0x340000000A#40 = false := by
  decide

/-- A word that matches ENCHOURS under its mask, and one that does but for the reserved tag. -/
theorem witness_OpcodeTableMasksDecode : ("ENCHOURS", 0xF3FFFFFF00#40, 0x3000000000#40) ∈ opcodeRows ∧
    0x3C0000000A#40 &&& 0xF3FFFFFF00#40 = 0x3000000000#40 ∧ (0x3C0000000A#40).extractLsb' 34 2 ≠ 0b01#2 ∧
    (0x340000000A#40).extractLsb' 34 2 = 0b01#2 := by
  refine ⟨?_, by decide, by decide, by decide⟩
  simp [opcodeRows]

theorem witness_FormatTagsAreHoursBits : Fmt.am ≠ Fmt.h24 ∧ Fmt.pm ≠ Fmt.h24 := by decide

/-- The largest binary value and the largest valid byte, and where each range ends. -/
theorem witness_BcdRoundTrip : (99#8).toNat < 100 ∧ ¬ (100#8).toNat < 100 ∧ bcdValid 0x99#8 = true ∧
    bcdValid 0x9A#8 = false := by decide

/-- The round trip at the ends of each set and just outside it (95_test_vectors.md section 2.2). -/
theorem witness_HoursRoundTripSets :
    decHours (encHours 39#8 .h24) = (39#8, .h24) ∧ decHours (encHours 40#8 .h24) ≠ (40#8, .h24) ∧
    decHours (encHours 80#8 .h24) = (80#8, .h24) ∧ decHours (encHours 19#8 .am) = (19#8, .am) ∧
    decHours (encHours 20#8 .am) ≠ (20#8, .am) ∧ decHours (encHours 19#8 .pm) = (19#8, .pm) ∧
    decHours (encHours 79#8 .pm) ≠ (79#8, .pm) ∧ decHours (encHours 99#8 .pm) = (99#8, .pm) := by decide

theorem witness_SecondsRoundTrip : (79#8).toNat < 80 ∧ 80 ≤ (80#8).toNat ∧ (99#8).toNat < 100 ∧
    decSec (encSec 99#8) = 19#8 := by decide

/-- The hypothesis of the six codec results. -/
theorem witness_CodecResults : State.reset.fsm = .idle := rfl

/-- The table's own numbers at the ends of the clauses of `digitsByte` and `digitsValue`. -/
theorem witness_digits : digitsByte 99#8 = 0x99#8 ∧ digitsByte 100#8 = Config.bin2bcdOor 100#8 ∧
    digitsValue 0x99#8 = 99#8 ∧ digitsValue 0x9A#8 = Config.bcd2binInvalid 0x9A#8 :=
  ⟨rfl, rfl, rfl, rfl⟩

theorem witness_SequencedCommandAccepted : sequenced .gettime = true ∧ State.reset.fsm = .idle := by decide

/-- The last request of the longest command. -/
theorem witness_TableRequestIssued : decode (inIssue 0xC000000000#40 7#3).cmd = .ok .getdate ∧
    (inIssue 0xC000000000#40 7#3).fsm = .issue ∧ (tableRequests .getdate)[7]? = some (.read 0x68#7) := by decide

/-- A row that is not the last, and the last one. -/
theorem witness_OkResponseAdvances :
    (inWait 0xC000000000#40 6#3 [okWith 0x00#8]).fsm = .wait ∧
    (tableRequests .getdate)[6]? = some (.pointer 0x68#7 0x06#8) ∧ 6 + 1 ≠ (tableRequests .getdate).length ∧
    (tableRequests .getdate)[7]? = some (.read 0x68#7) ∧ 7 + 1 = (tableRequests .getdate).length ∧
    (⟨true, 0#Config.errW, 0x00#8⟩ : TResp).ok = true := ⟨rfl, rfl, by decide, rfl, rfl, rfl⟩

theorem witness_ErrorResponseAborts :
    (inWait 0x8000000000#40 0#3 [failed true]).fsm = .wait ∧
    (tableRequests .init)[0]? = some (.configure 0x68#7 Config.speedClass) ∧
    (⟨false, 0#Config.errW, 0x00#8⟩ : TResp).ok = false := ⟨rfl, rfl, rfl⟩

/-- Each clause: a response taken, a reset in DONE, a step outside DONE. -/
theorem witness_ResponseTakenOnce :
    (rstHigh inDone = false ∧ inDone.fsm = .done) ∧
    (rstHigh { inDone with rst := [.high false] } = true ∧ ∃ t, step { inDone with rst := [.high false] } = .next t) ∧
    (State.reset.fsm ≠ .done ∧ ∃ t, step State.reset = .next t) :=
  ⟨⟨rfl, rfl⟩, ⟨rfl, _, rfl⟩, ⟨by decide, _, rfl⟩⟩

theorem witness_IllegalCommandRefused : (withWord 0x94000A1901#40).fsm = .idle ∧ rstHigh (withWord 0x94000A1901#40) = false ∧
    (withWord 0x94000A1901#40).cmds = 0x94000A1901#40 :: [] ∧ legalWord 0x94000A1901#40 = false := by decide

theorem witness_StepRunsDecodedCommand :
    (rstHigh (withWord 0xB000000000#40) = false ∧ (withWord 0xB000000000#40).cmds = 0xB000000000#40 :: [] ∧
      decode 0xB000000000#40 = .ok .gettime) ∧
    ((inIssue 0xB000000000#40 0#3).running ∧ rstHigh (inIssue 0xB000000000#40 0#3) = false ∧
      decode (inIssue 0xB000000000#40 0#3).cmd = .ok .gettime) :=
  ⟨by decide, .inl rfl, by decide, by decide⟩

theorem witness_BlockHoldsWithoutEvent :
    (State.reset.fsm = .idle ∧ State.reset.rst = [] ∧ State.reset.cmds = []) ∧
    ((inWait 0xB000000000#40 1#3 []).rst = [] ∧ (inWait 0xB000000000#40 1#3 []).answers = [] ∧
      currentRequest (inWait 0xB000000000#40 1#3 []).cmd (inWait 0xB000000000#40 1#3 []).stepIx = some (.read 0x68#7)) :=
  ⟨⟨rfl, rfl, rfl⟩, rfl, rfl, by decide⟩

/-- Each sequencer state, and a reset in IDLE. -/
theorem witness_SequencerStateCodes : fsmCode (inWait 0xB000000000#40 0#3 []).fsm = 0b10#2 ∧
    cmdReady State.reset = true ∧ treqValid (inIssue 0xB000000000#40 0#3) = true ∧ rspValid inDone = true ∧
    cmdReady { State.reset with rst := [.high false] } = false := by decide

/-- One step for each row of R105's table. -/
theorem witness_TransitionRelation :
    field (step (withWord 0x0000000000#40)) State.fsm = some .done ∧
    field (step (withWord 0x1000000005#40)) State.fsm = some .done ∧
    field (step (withWord 0xB000000000#40)) State.fsm = some .issue ∧
    field (step (inIssue 0xB000000000#40 0#3)) State.fsm = some .wait ∧
    field (step (inWait 0xB000000000#40 0#3 [failed false])) State.fsm = some .done ∧
    field (step (inWait 0xB000000000#40 5#3 [okWith 0x70#8])) State.fsm = some .done ∧
    field (step (inWait 0xB000000000#40 1#3 [okWith 0x01#8])) State.fsm = some .issue ∧
    field (step inDone) State.fsm = some .idle ∧
    field (step { inDone with rst := [.high false] }) State.fsm = some .idle ∧
    field (step State.reset) State.fsm = some .idle := by decide

/-- STEP at each of its clauses. -/
theorem witness_StepCounterRule :
    rstHigh (inWait 0xC000000000#40 6#3 [okWith 0x00#8]) = false ∧
    field (step (inWait 0xC000000000#40 6#3 [okWith 0x00#8])) State.stepIx = some 7#3 ∧
    field (step (inWait 0xC000000000#40 7#3 [okWith 0x00#8])) State.stepIx = some 7#3 ∧
    field (step (inIssue 0xC000000000#40 7#3)) State.stepIx = some 7#3 ∧
    field (step (withWord 0xC000000000#40)) State.stepIx = some 0#3 ∧
    field (step State.reset) State.stepIx = some 0#3 ∧ field (step inDone) State.stepIx = some 0#3 := by decide

theorem witness_CommandWordLatched :
    (State.reset.fsm = .idle ∧ rstHigh State.reset = false ∧ inDone.fsm ≠ .idle) ∧
    field (step (withWord 0xB000000000#40)) State.cmd = some 0xB000000000#40 ∧
    (inIssue 0xB000000000#40 0#3).fsm ≠ .idle ∧ rstHigh (inIssue 0xB000000000#40 0#3) = false ∧
    field (step (inIssue 0xB000000000#40 0#3)) State.cmd = some 0xB000000000#40 := by decide

/-- Two IDLE states that differ in what an earlier command left. -/
theorem witness_AcceptanceForgetsEarlierCommands :
    (withWord 0xB000000000#40).fsm = .idle ∧ rstHigh (withWord 0xB000000000#40) = false ∧
    ({ withWord 0xB000000000#40 with res0 := some 0x59#8, status := some .ok } : State) ≠ withWord 0xB000000000#40 := by
  refine ⟨rfl, rfl, fun h => ?_⟩
  have := congrArg State.res0 h
  simp [withWord, State.reset] at this

/-- A state in IDLE with answers to come. -/
def answered (as : List Answer) : State := { State.reset with answers := as }

/-- An `ok` answer on the wires, and an error. -/
def okWires : TResp := ⟨true, 0#Config.errW, 0x00#8⟩
def errWires : TResp := ⟨false, 0#Config.errW, 0x00#8⟩

/-- INIT: four `ok` answers, and four of the reference chip. -/
theorem witness_InitRun :
    ((answered [.oracle okWires false, .oracle okWires false, .oracle okWires false, .oracle okWires false]).fsm = .idle ∧
      okWires.ok = true) ∧
    (answered [.refChip, .refChip, .refChip, .refChip]).answers = .refChip :: .refChip :: .refChip :: .refChip :: [] :=
  ⟨⟨rfl, rfl⟩, rfl⟩

theorem witness_SettimeRun : (answered [.oracle okWires true, .oracle okWires true, .oracle okWires true]).fsm = .idle ∧
    (answered [.oracle okWires true, .oracle okWires true, .oracle okWires true]).answers =
      .oracle okWires true :: .oracle okWires true :: .oracle okWires true :: [] ∧ okWires.ok = true := ⟨rfl, rfl, rfl⟩

theorem witness_SetdateRun : (answered (List.replicate 4 (.oracle okWires false))).fsm = .idle ∧
    (answered (List.replicate 4 (.oracle okWires false))).answers = .oracle okWires false :: .oracle okWires false ::
      .oracle okWires false :: .oracle okWires false :: [] ∧ okWires.ok = true := ⟨rfl, rfl, rfl⟩

theorem witness_GettimeRun : (answered (List.replicate 6 (.oracle okWires false))).fsm = .idle ∧
    (answered (List.replicate 6 (.oracle okWires false))).answers = .oracle okWires false :: .oracle okWires false ::
      .oracle okWires false :: .oracle okWires false :: .oracle okWires false :: .oracle okWires false :: [] ∧
    okWires.ok = true ∧ (answered (List.replicate 6 .refChip)).answers = List.replicate 6 .refChip ++ [] :=
  ⟨rfl, rfl, rfl, rfl⟩

theorem witness_GetdateRun : (answered (List.replicate 8 (.oracle okWires false))).fsm = .idle ∧
    (answered (List.replicate 8 (.oracle okWires false))).answers = .oracle okWires false :: .oracle okWires false ::
      .oracle okWires false :: .oracle okWires false :: .oracle okWires false :: .oracle okWires false ::
      .oracle okWires false :: .oracle okWires false :: [] ∧ okWires.ok = true ∧
    (answered (List.replicate 8 .refChip)).answers = List.replicate 8 .refChip ++ [] := ⟨rfl, rfl, rfl, rfl⟩

/-- The abort clause of the five runs: GETDATE failing at its last request, and any command at its first. -/
theorem witness_abortsAtFirstError :
    (answered (List.replicate 7 (.oracle okWires false) ++ .oracle errWires true :: [])).fsm = .idle ∧
    allOk (List.replicate 7 (.oracle okWires false)) ∧ errWires.ok = false ∧
    (List.replicate 7 (Answer.oracle okWires false)).length < (tableRequests .getdate).length ∧
    allOk [] ∧ ([] : List Answer).length < (tableRequests (.settime 1#8 25#8 10#8 .pm)).length :=
  ⟨rfl, fun _ ha => ⟨_, _, List.eq_of_mem_replicate ha, rfl⟩, rfl, by decide, fun _ ha => by simp at ha, by decide⟩

/-- The answers of each run: INIT and SETDATE take four, SETTIME three, GETTIME six, GETDATE eight. -/
theorem witness_RequestCounts : (tableRequests .init).length = 4 ∧ (tableRequests (.settime 1#8 25#8 10#8 .pm)).length = 3 ∧
    (tableRequests (.setdate 27#8 3#8 12#8 22#8)).length = 4 ∧ (tableRequests .gettime).length = 6 ∧
    (tableRequests .getdate).length = 8 ∧ allOk (List.replicate 8 (okWith 0x00#8)) ∧
    sequenced (.bin2bcd 5#8) = false ∧ field (exec (.bin2bcd 5#8) State.reset) State.fsm = some .done ∧
    field (step (withWord 0x0000000000#40)) State.issued = some [] := by
  refine ⟨rfl, rfl, rfl, rfl, rfl, fun a ha => ?_, rfl, by decide, by decide⟩
  exact ⟨_, _, List.eq_of_mem_replicate ha, rfl⟩

/-- Answers of both kinds, in any mixture. -/
theorem witness_SequencedCommandTerminates : sequenced .getdate = true ∧
    (answered (List.replicate 4 (okWith 0x00#8) ++ List.replicate 4 .refChip)).fsm = .idle ∧
    8 ≤ (answered (List.replicate 4 (okWith 0x00#8) ++ List.replicate 4 .refChip)).answers.length := by decide

/-- The ends of the ranges: seconds 79, minutes 99, and hours 19 in PM, 99 in AM, 39 in 24-hour format. -/
theorem witness_SetTimeThenGetTime :
    ({ answered (List.replicate 9 .refChip) with
        cmds := [encode (.settime 79#8 99#8 19#8 .pm), encode .gettime] } : State).fsm = .idle ∧
    ({ answered (List.replicate 9 .refChip) with
        cmds := [encode (.settime 79#8 99#8 19#8 .pm), encode .gettime] } : State).rst = [] ∧
    Memory.wf State.reset.chip.regs ∧ (answered (List.replicate 9 .refChip)).answers = List.replicate 9 .refChip ++ [] ∧
    (79#8).toNat < 80 ∧ (99#8).toNat < 100 ∧ (19#8).toNat < 20 ∧ 80 ≤ (99#8).toNat ∧ (39#8).toNat < 40 := by
  refine ⟨rfl, rfl, by decide, rfl, by decide, by decide, by decide, by decide, by decide⟩

theorem witness_SetDateThenGetDate :
    ({ answered (List.replicate 12 .refChip) with
        cmds := [encode (.setdate 99#8 0#8 99#8 99#8), encode .getdate] } : State).fsm = .idle ∧
    ({ answered (List.replicate 12 .refChip) with
        cmds := [encode (.setdate 99#8 0#8 99#8 99#8), encode .getdate] } : State).rst = [] ∧
    Memory.wf State.reset.chip.regs ∧ (answered (List.replicate 12 .refChip)).answers = List.replicate 12 .refChip ++ [] ∧
    (99#8).toNat < 100 ∧ (0#8).toNat < 100 := by
  refine ⟨rfl, rfl, by decide, rfl, by decide, by decide⟩

theorem witness_CodecFrame : sequenced (.dechours 0x70#8) = false ∧ ∃ t, exec (.dechours 0x70#8) State.reset = .next t :=
  ⟨rfl, _, rfl⟩

/-- A step of a sequenced command in each state of the sequencer, a WRITE answered among them. -/
theorem witness_SequencedFrame : sequenced (.settime 1#8 25#8 10#8 .pm) = true ∧
    Memory.wf (inWait 0x9C000A1901#40 1#3 [okWith 0x00#8]).chip.regs ∧
    field (exec (.settime 1#8 25#8 10#8 .pm) (inWait 0x9C000A1901#40 1#3 [okWith 0x00#8])) (fun t => t.chip.regs) =
      some [(1, 0x25#8)] ∧
    (∃ t, exec (.settime 1#8 25#8 10#8 .pm) (inIssue 0x9C000A1901#40 1#3) = .next t) ∧
    (∃ t, exec (.settime 1#8 25#8 10#8 .pm) State.reset = .next t) ∧
    (∃ t, exec (.settime 1#8 25#8 10#8 .pm) inDone = .next t) :=
  ⟨rfl, by decide, by decide, ⟨_, rfl⟩, ⟨_, rfl⟩, ⟨_, rfl⟩⟩

theorem witness_ChipChangesOnlyByWrite : Memory.wf (inWait 0x9C000A1901#40 1#3 [okWith 0x00#8]).chip.regs ∧
    field (step (inWait 0x9C000A1901#40 1#3 [okWith 0x00#8])) (fun t => Memory.read t.chip.regs 1) = some (some 0x25#8) ∧
    Memory.read (inWait 0x9C000A1901#40 1#3 [okWith 0x00#8]).chip.regs 1 = none := by decide

/-- A request issued, for the statements about every request. -/
theorem witness_RequestsIssued : field (step (inIssue 0x9C000A1901#40 0#3)) State.issued =
    some [.write 0x68#7 0x00#8 0x01#8] ∧ (Request.write 0x68#7 0x00#8 0x01#8).bytes = 0x00#8 :: [0x01#8] := by decide

/-- INIT's write of the seconds register (R54). -/
theorem witness_OscillatorNeverHalted : ∃ t, step (inIssue 0x8000000000#40 1#3) = .next t ∧
    t.issued = (inIssue 0x8000000000#40 1#3).issued ++ [.write 0x68#7 0x00#8 0x00#8] := ⟨_, rfl, rfl⟩

/-- OneRequestOutstanding: a request taken, and the answer that lets the next one out. -/
theorem witness_OneRequestOutstanding : (∃ t, step (inIssue 0xB000000000#40 0#3) = .next t) ∧
    field (step (inWait 0xB000000000#40 0#3 [okWith 0x00#8])) State.fsm = some .issue := ⟨⟨_, rfl⟩, by decide⟩

/-- One request of each of the four shapes is presented. -/
theorem witness_RequestWireFormat :
    presentedRequest (inIssue 0x8000000000#40 0#3) = some (.configure 0x68#7 Config.speedClass) ∧
    presentedRequest (inIssue 0x8000000000#40 1#3) = some (.write 0x68#7 0x00#8 0x00#8) ∧
    presentedRequest (inIssue 0x8000000000#40 2#3) = some (.pointer 0x68#7 0x00#8) ∧
    presentedRequest (inIssue 0x8000000000#40 3#3) = some (.read 0x68#7) := ⟨rfl, rfl, rfl, rfl⟩

/-- Two answers that differ only in an ignored wire. -/
theorem witness_IgnoredResponseWires : (tableRequests .gettime)[0]? = some (.pointer 0x68#7 0x00#8) ∧
    (Request.pointer 0x68#7 0x00#8).isRead = false ∧
    (⟨true, 0#Config.errW, 0x12#8⟩ : TResp).ok = (⟨true, 0#Config.errW, 0x34#8⟩ : TResp).ok := ⟨rfl, rfl, rfl⟩

theorem witness_FailedWriteBothWays : (inWait 0xA0160C031B#40 2#3 [failed true]).fsm = .wait ∧
    Memory.wf (inWait 0xA0160C031B#40 2#3 [failed true]).chip.regs ∧
    (tableRequests (.setdate 27#8 3#8 12#8 22#8))[2]? = some (.write 0x68#7 0x05#8 0x12#8) := by decide

theorem witness_ReferenceChipRows : (⟨[], none⟩ : Chip).ptr = none ∧ (⟨[], some 0x02#8⟩ : Chip).ptr = some 0x02#8 ∧
    (Request.read 0x50#7).dev ≠ 0x68#7 ∧ Memory.wf [] := by decide

/-- A response of each status and of each format, with fields that hold a value and fields that do not. -/
theorem witness_ResponseWordFields : inDone.response.status = some .ok ∧ inDone.response.res0 = some 0x59#8 ∧
    inDone.response.rfmt = none ∧ inDone.response.res3 = none ∧
    (∀ st, (⟨some st, none, none, none, none, none, none⟩ : Response).status = some st) ∧
    (∀ f, (⟨none, some f, none, none, none, none, none⟩ : Response).rfmt = some f) :=
  ⟨rfl, rfl, rfl, rfl, fun _ => rfl, fun _ => rfl⟩

theorem witness_Reset : ({ State.reset with rst := [.high true] } : State).rst = .high true :: [] ∧
    ({ inWait 0xA0160C031B#40 2#3 [] with rst := [.high true] } : State).fsm = .wait ∧
    currentRequest 0xA0160C031B#40 2#3 = some (.write 0x68#7 0x05#8 0x12#8) := by decide

/-- `GETTIME` waiting for its first answer. -/
def waiting : State := { inWait 0xB000000000#40 0#3 [okWith 0x00#8] with issued := [.pointer 0x68#7 0x00#8] }

/-- A state of the invariant in which a command runs. -/
theorem witness_Inv : waiting.Inv where
  memory := by decide
  held := fun _ => ⟨.pointer 0x00#8, by decide, by decide⟩
  outstanding := fun _ => by decide
  unfinished := fun _ => rfl
  finished := fun h => by simp [waiting, inWait] at h
  errorValue := by simp [waiting, inWait, State.reset]
  errorResults := by simp [waiting, inWait, State.reset]
  contract := fun q hq => by
    simp only [waiting, List.mem_singleton] at hq
    subst hq
    exact ⟨rfl, by decide⟩

/-- A step from that state, for the statements that steps keep the invariant and that none stops. -/
theorem witness_StepKeepsInvariant : waiting.Inv ∧ ∃ t, step waiting = .next t := ⟨witness_Inv, _, rfl⟩

theorem witness_StepKeepsChipCellsCanonical : Memory.wf (inWait 0x9C000A1901#40 0#3 [okWith 0x00#8]).chip.regs ∧
    ∃ t, step (inWait 0x9C000A1901#40 0#3 [okWith 0x00#8]) = .next t := ⟨by decide, _, rfl⟩

end Sys2Proof.Tests
end

section
/-! PROOFS. The statements about the state: the invariant and its step, the STEP counter, what acceptance forgets, what a
handshake leaves unchanged, and the encoding of the sequencer state. First the facts about the micro-programs, the chip and
the state that they need; then the moves of one handshake, said once; then the statements. -/

namespace Sys2Proof

namespace Machine

/-! ### Command words -/

/-- R70 to R74: the word of a command decodes to it. -/
theorem decode_encode (i : Instr) : decode (encode i) = .ok i := by
  rw [decode_eq_ok_iff]
  cases i <;>
    simp [encode, decodeByte_eq_ok_iff, decodePlain_eq_ok_iff, decodeEnchours_eq_ok_iff, decodeSettime_eq_ok_iff,
      decodeSetdate_eq_ok_iff]

/-! ### The micro-programs (R106) -/

/-- R20: STEP has a value for every row of every micro-program. -/
theorem program_length_le (i : Instr) : (program i).length ≤ 8 := by
  cases i <;>
    simp [program, initProgram, settimeProgram, setdateProgram, gettimeProgram, getdateProgram, memRead]

/-- R101: a sequenced command has a first row, and it is no READ. -/
theorem program_first {i : Instr} (h : sequenced i = true) :
    ∃ m, (program i)[0]? = some m ∧ m.request.isRead = false := by
  cases i with
  | bin2bcd | bcd2bin | enchours | dechours | encsec | decsec => simp [sequenced] at h
  | init | settime | setdate | gettime | getdate => exact ⟨_, rfl, rfl⟩

/-- R109: in every micro-program the row before a READ is a pointer write. -/
theorem program_isChain (i : Instr) :
    (program i).IsChain fun m m' => m'.request.isRead = true → ∃ a, m = .pointer a := by
  cases i <;>
    simp [program, initProgram, settimeProgram, setdateProgram, gettimeProgram, getdateProgram, memRead, Micro.request,
      Request.isRead]

theorem pointer_before_read {i : Instr} {k : Nat} {m m' : Micro} (hm : (program i)[k]? = some m)
    (hm' : (program i)[k + 1]? = some m') (hr : m'.request.isRead = true) : ∃ a, m = .pointer a := by
  obtain ⟨hk, rfl⟩ := List.getElem?_eq_some_iff.1 hm'
  obtain ⟨_, rfl⟩ := List.getElem?_eq_some_iff.1 hm
  exact List.isChain_iff_getElem.1 (program_isChain i) k hk hr

/-- R106, column "on ok": which results the READs of each command write. -/
theorem program_read_act {i : Instr} {act : Act} (h : .read act ∈ program i) :
    (i = .init ∧ act = .haltFlag) ∨
    (i = .gettime ∧ (act = .seconds ∨ act = .bcd1 ∨ act = .hours)) ∨
    (i = .getdate ∧ (act = .bcd0 ∨ act = .bcd1 ∨ act = .bcd2 ∨ act = .bcd3)) := by
  cases i with
  | bin2bcd | bcd2bin | enchours | dechours | encsec | decsec => simp [program] at h
  | settime | setdate => simp [program, settimeProgram, setdateProgram] at h
  | init => simpa [program, initProgram, memRead] using h
  | gettime => simpa [program, gettimeProgram, memRead] using h
  | getdate => simpa [program, getdateProgram, memRead] using h

/-! ### The statements' own table is the micro-programs' (R106) -/

theorem bin2bcd_eq_digitsByte (v : Byte) : bin2bcd v = digitsByte v := by
  unfold digitsByte
  split
  · next h => exact bin2bcd_of_lt h
  · next h => exact bin2bcd_of_ge (Nat.not_lt.1 h)

theorem encSec_eq_secondsByte (s : Byte) : encSec s = secondsByte s := by
  rw [encSec, secondsByte, bin2bcd_eq_digitsByte]
  generalize digitsByte s = b
  revert b
  decide

theorem encHours_eq_hoursByte (h : Byte) (f : Fmt) : encHours h f = hoursByte h f := by
  cases f <;>
  · simp only [encHours, hoursByte, bin2bcd_eq_digitsByte]
    generalize digitsByte h = b
    revert b
    decide

theorem tableRequests_eq_map_program (i : Instr) : tableRequests i = (program i).map Micro.request := by
  cases i <;>
    simp [tableRequests, program, initProgram, settimeProgram, setdateProgram, gettimeProgram, getdateProgram, memRead,
      Micro.request, Config.devAddr, Config.regSec, Config.regMin, Config.regHour, Config.regDate, Config.regWday,
      Config.regMonth, Config.regYear, bin2bcd_eq_digitsByte, encSec_eq_secondsByte, encHours_eq_hoursByte]

/-! ### The chip -/

/-- R32, R37: a request changes a register's cell only as the WRITE of that register. -/
theorem Chip.write_of_read_apply_ne {c : Chip} (hc : Memory.wf c.regs) {q : Request} {x : Nat}
    (h : Memory.read (c.apply q).regs x ≠ Memory.read c.regs x) :
    ∃ d a v, q = .write d a v ∧ x = a.toNat ∧ Memory.read (c.apply q).regs x = some v := by
  cases q with
  | configure | pointer | read => exact absurd rfl h
  | write d a v =>
    have hx : x = a.toNat := by_contra fun hx => h (Memory.read_write_other hc v hx)
    subst hx
    exact ⟨d, a, v, rfl, rfl, Memory.read_write_self _ _ _⟩

/-- R64: whatever the answer, the chip is as it was or has taken the request. -/
theorem Answer.resolve_chip {a : Answer} {q : Request} {c c' : Chip} {r : Result} (h : a.resolve q c = some (r, c')) :
    c' = c ∨ c' = c.apply q := by
  rcases Answer.resolve_cases h with ⟨_, _, _, hc⟩ | ⟨_, _, hc⟩
  · exact .inr hc
  · exact hc

/-- R64: a request answered `ok` has reached the chip. -/
theorem Answer.resolve_ok_chip {a : Answer} {q : Request} {c c' : Chip} {data : Option Byte}
    (h : a.resolve q c = some (.ok data, c')) : c' = c.apply q := by
  rcases Answer.resolve_cases h with ⟨_, _, _, hc⟩ | ⟨_, he, _⟩
  · exact hc
  · cases he

/-- R138: a reset applies to the chip at most the request in flight in WAIT. -/
theorem State.chipAfterReset_cases (landed : Bool) (s : State) :
    s.chipAfterReset landed = s.chip ∨
    ∃ q, s.fsm = .wait ∧ currentRequest s.cmd s.stepIx = some q ∧ s.chipAfterReset landed = s.chip.apply q := by
  unfold State.chipAfterReset
  split
  · next q hf hq =>
    cases landed
    · exact .inl rfl
    · exact .inr ⟨q, hf, hq, rfl⟩
  · exact .inl rfl

/-! ### The shared operations -/

@[simp] theorem codecWrite_stepIx (i : Instr) (s : State) : (codecWrite i s).stepIx = s.stepIx := by cases i <;> rfl
@[simp] theorem codecWrite_err (i : Instr) (s : State) : (codecWrite i s).err = s.err := by cases i <;> rfl
@[simp] theorem codecWrite_chip (i : Instr) (s : State) : (codecWrite i s).chip = s.chip := by cases i <;> rfl
@[simp] theorem codecWrite_issued (i : Instr) (s : State) : (codecWrite i s).issued = s.issued := by cases i <;> rfl

/-- R103: an `ok` is the last row's and ends the command, or another row follows it. -/
theorem State.succeed_cases {p : List Micro} {s : State} {m : Micro} (hm : p[s.stepIx.toNat]? = some m)
    (data : Option Byte) :
    s.succeed p m data = (m.deliver data s).finish .ok ∨
    (s.stepIx.toNat + 1 < p.length ∧ s.succeed p m data = (m.deliver data s).advance) := by
  have hk := (List.getElem?_eq_some_iff.1 hm).1
  unfold State.succeed
  split
  · exact .inl rfl
  · exact .inr ⟨by omega, rfl⟩

/-- R20: before the last row STEP goes up by 1 without a wrap. -/
theorem stepIx_succ_toNat {i : Instr} {k : BitVec 3} (h : k.toNat + 1 < (program i).length) :
    (k + 1#3).toNat = k.toNat + 1 := by
  have hlen := program_length_le i
  have hk : k.toNat + 1 < 2 ^ 3 := by omega
  simpa [BitVec.toNat_add] using Nat.mod_eq_of_lt hk

/-- R105: without a reset a step is a handshake. -/
theorem step_of_rst_low {s : State} (h : rstHigh s = false) : step s = handshake { s with rst := s.rst.tail } := by
  match s, h with
  | { rst := [], .. }, _ => rfl
  | { rst := .low :: _, .. }, _ => rfl
  | { rst := .high _ :: _, .. }, h => simp [rstHigh] at h

/-- R100: in IDLE the one handshake is the command port's. -/
theorem handshake_of_idle {s : State} (h : s.fsm = .idle) : handshake s = acceptNext s := by
  simp only [handshake, h]

/-! ### The moves of one handshake -/

/-- R105: one handshake of the block, one constructor for each thing it can be. -/
inductive Move : State → State → Prop
  /-- No event is to come (log 3). -/
  | hold {s : State} (h : (s.fsm = .idle ∧ s.cmds = []) ∨ (s.fsm = .wait ∧ s.answers = [])) : Move s s
  /-- R118: an illegal word is taken. -/
  | refuse {s : State} {w : CmdWord} {port : List CmdWord} {x : Illegal} (hf : s.fsm = .idle) (hw : s.cmds = w :: port)
      (hd : decode w = .error x) : Move s (State.refuseIllegal w { s with cmds := port })
  /-- R101: a codec command, whole in its acceptance. -/
  | codec {s : State} {w : CmdWord} {port : List CmdWord} {i : Instr} (hf : s.fsm = .idle) (hw : s.cmds = w :: port)
      (hd : decode w = .ok i) (hi : sequenced i = false) :
      Move s ((codecWrite i (State.latch (encode i) { s with cmds := port })).finish .ok)
  /-- R100: a sequenced command is accepted. -/
  | accept {s : State} {w : CmdWord} {port : List CmdWord} {i : Instr} (hf : s.fsm = .idle) (hw : s.cmds = w :: port)
      (hd : decode w = .ok i) (hi : sequenced i = true) :
      Move s { State.latch (encode i) { s with cmds := port } with fsm := .issue }
  /-- R102: the transport takes the request. -/
  | take {s : State} {i : Instr} {m : Micro} (hf : s.fsm = .issue) (hd : decode s.cmd = .ok i)
      (hm : (program i)[s.stepIx.toNat]? = some m) : Move s (s.takeRequest m.request)
  /-- R123: the request is answered with an error. -/
  | fail {s : State} {i : Instr} {m : Micro} {a : Answer} {rest : List Answer} {e : TErr} {c : Chip} (hf : s.fsm = .wait)
      (hd : decode s.cmd = .ok i) (hm : (program i)[s.stepIx.toNat]? = some m) (ha : s.answers = a :: rest)
      (hr : a.resolve m.request s.chip = some (.err e, c)) : Move s ({ s with answers := rest, chip := c }.abort e)
  /-- R103: the request is answered `ok`, and the command ends. -/
  | last {s : State} {i : Instr} {m : Micro} {a : Answer} {rest : List Answer} {data : Option Byte} {c : Chip}
      (hf : s.fsm = .wait) (hd : decode s.cmd = .ok i) (hm : (program i)[s.stepIx.toNat]? = some m)
      (ha : s.answers = a :: rest) (hr : a.resolve m.request s.chip = some (.ok data, c)) :
      Move s ((m.deliver data { s with answers := rest, chip := c }).finish .ok)
  /-- R103: the request is answered `ok`, and another row follows. -/
  | next {s : State} {i : Instr} {m : Micro} {a : Answer} {rest : List Answer} {data : Option Byte} {c : Chip}
      (hf : s.fsm = .wait) (hd : decode s.cmd = .ok i) (hm : (program i)[s.stepIx.toNat]? = some m)
      (ha : s.answers = a :: rest) (hr : a.resolve m.request s.chip = some (.ok data, c))
      (hk : s.stepIx.toNat + 1 < (program i).length) :
      Move s (m.deliver data { s with answers := rest, chip := c }).advance
  /-- R104: the caller takes the response. -/
  | respond {s : State} (hf : s.fsm = .done) : Move s s.respond

/-- The moves of the command held in CMD. -/
theorem move_of_exec_held {i : Instr} {s t : State} (hrun : s.running) (hd : decode s.cmd = .ok i)
    (h : exec i s = .next t) : Move s t := by
  have hidle : s.fsm ≠ .idle := by rcases hrun with hf | hf <;> simp [hf]
  rcases exec_cases h with ⟨hf, -⟩ | ⟨hf, -⟩ | ⟨m, hf, hm, rfl⟩ | ⟨m, hf, hm, hw⟩ | ⟨hf, rfl⟩
  · exact absurd hf hidle
  · exact absurd hf hidle
  · exact .take hf hd hm
  · rcases awaitResponse_cases hw with ⟨ha, rfl⟩ | ⟨a, rest, e, c, ha, hr, rfl⟩ | ⟨a, rest, data, c, ha, hr, rfl⟩
    · exact .hold (.inr ⟨hf, ha⟩)
    · exact .fail hf hd hm ha hr
    · rcases State.succeed_cases (s := { s with answers := rest, chip := c }) hm data with heq | ⟨hk, heq⟩
      · exact heq ▸ .last hf hd hm ha hr
      · exact heq ▸ .next hf hd hm ha hr hk
  · exact .respond hf

/-- The moves of the acceptance of a legal word. -/
theorem move_of_exec_accepted {i : Instr} {w : CmdWord} {port : List CmdWord} {s t : State} (hf : s.fsm = .idle)
    (hw : s.cmds = w :: port) (hd : decode w = .ok i) (h : exec i { s with cmds := port } = .next t) : Move s t := by
  rcases exec_cases h with ⟨-, hi, rfl⟩ | ⟨-, hi, rfl⟩ | ⟨_, hf', -⟩ | ⟨_, hf', -⟩ | ⟨hf', -⟩
  · exact .codec hf hw hd hi
  · exact .accept hf hw hd hi
  all_goals simp [hf] at hf'

/-- Every handshake of the model is one of the moves. -/
theorem move_of_handshake {s t : State} (h : handshake s = .next t) : Move s t := by
  rcases handshake_cases h with ⟨hf, hc, rfl⟩ | ⟨w, port, i, hf, hw, hd, he⟩ | ⟨w, port, _, hf, hw, hd, rfl⟩ |
    ⟨i, hrun, hd, he⟩ | ⟨hf, rfl⟩
  · exact .hold (.inl ⟨hf, hc⟩)
  · exact move_of_exec_accepted hf hw hd he
  · exact .refuse hf hw hd
  · exact move_of_exec_held hrun hd he
  · exact .respond hf

/-- A step without a reset is a move of the state less the reset sample used up. -/
theorem move_of_step {s t : State} (hrst : rstHigh s = false) (h : step s = .next t) :
    Move { s with rst := s.rst.tail } t :=
  move_of_handshake (step_of_rst_low hrst ▸ h)

/-! ### The state after reset and the sequencer state -/

/-- Settles O49: `State.reset` holds each value of R41's table. -/
theorem resetStateValues : Obligations.ResetStateValues :=
  ⟨rfl, rfl, rfl, rfl, rfl, rfl, rfl, rfl, rfl, rfl, rfl⟩

/-- Settles O56: in each of the four sequencer states the port signals are given by their definitions. -/
theorem sequencerStateCodes : Obligations.SequencerStateCodes := by
  refine ⟨rfl, rfl, rfl, rfl, fun s => ?_⟩
  cases hf : s.fsm <;>
    simp [cmdReady, treqValid, rspValid, presentedRequest, presentedResponse, fsmCode, hf]

/-! ### STEP (R20) -/

/-- R20, clause by clause, for one handshake. -/
theorem Move.stepIx_rule {s t : State} (h : Move s t) :
    (s.fsm = .idle → s.cmds ≠ [] → t.stepIx = 0#3) ∧
    (s.fsm = .idle → s.cmds = [] → t.stepIx = s.stepIx) ∧
    (s.fsm = .wait → t.fsm = .issue → t.stepIx.toNat = s.stepIx.toNat + 1) ∧
    (s.fsm = .wait → t.fsm ≠ .issue → t.stepIx = s.stepIx) ∧
    (s.fsm = .issue → t.stepIx = s.stepIx) ∧
    (s.fsm = .done → t.stepIx = s.stepIx) := by
  cases h with
  | hold h => rcases h with ⟨hf, hc⟩ | ⟨hf, -⟩ <;> simp_all
  | refuse hf hw | codec hf hw | accept hf hw => simp [hf, hw]
  | take hf | fail hf | last hf | respond hf => simp [hf]
  | next hf _ _ _ _ hk => simp [hf, stepIx_succ_toNat hk]

/-- Settles O25: the rule of one handshake, at the state less the reset sample used up. -/
theorem stepCounterRule : Obligations.StepCounterRule :=
  fun _ _ hrst h => (move_of_step hrst h).stepIx_rule

/-! ### Acceptance forgets the registers (R17, R62) -/

/-- R100: acceptance in IDLE reads of the state only what latching leaves. -/
theorem exec_eq_of_latch_eq {i : Instr} {s s' : State} (hf : s.fsm = .idle) (hf' : s'.fsm = .idle)
    (h : s'.latch (encode i) = s.latch (encode i)) : exec i s' = exec i s := by
  cases hi : sequenced i with
  | false => simp only [exec_codec hi, codecStep, hf, hf', h]
  | true => simp only [exec_sequenced hi, sequencedStep, hf, hf', h]

/-- R100, R118: a word on the port is taken the same way from two idle states that latching makes equal. -/
theorem handshake_eq_of_latch_eq {s s' : State} {w : CmdWord} {port : List CmdWord} (hf : s.fsm = .idle)
    (hf' : s'.fsm = .idle) (hw : s.cmds = w :: port) (hw' : s'.cmds = w :: port)
    (h : ∀ v, State.latch v { s' with cmds := port } = State.latch v { s with cmds := port }) :
    handshake s' = handshake s := by
  rw [handshake_of_idle hf, handshake_of_idle hf']
  simp only [acceptNext, hw, hw']
  split
  · next i _ => exact exec_eq_of_latch_eq hf hf' (h (encode i))
  · simp only [State.refuseIllegal, h]

/-- Settles O27: an acceptance latches first, and latching clears every register in which the two states differ. -/
theorem acceptanceForgetsEarlierCommands : Obligations.AcceptanceForgetsEarlierCommands := by
  intro s s' w port hf hrst hw hf' hchip hcmds hans hrst' hiss hdel
  have hlow' : rstHigh s' = false := by simpa [rstHigh, hrst'] using hrst
  rw [step_of_rst_low hrst, step_of_rst_low hlow']
  refine handshake_eq_of_latch_eq hf hf' hw (hcmds.trans hw) fun v => ?_
  simp only [State.latch, State.clearResults, hf, hf', hchip, hans, hrst', hiss, hdel]

/-! ### What changes the chip (R36) -/

/-- R64: one handshake applies to the chip at most the request outstanding in WAIT. -/
theorem Move.chip_cases {s t : State} (h : Move s t) :
    t.chip = s.chip ∨
    ∃ q, s.fsm = .wait ∧ currentRequest s.cmd s.stepIx = some q ∧ t.chip = s.chip.apply q := by
  cases h with
  | hold | refuse | codec | accept | take | respond => left; simp
  | fail hf hd hm _ hr =>
    refine (Answer.resolve_chip hr).imp id fun hc => ⟨_, hf, ?_, hc⟩
    simp [currentRequest, currentMicro_of_decode hd, hm]
  | last hf hd hm _ hr | next hf hd hm _ hr =>
    refine .inr ⟨_, hf, ?_, by simpa using Answer.resolve_ok_chip hr⟩
    simp [currentRequest, currentMicro_of_decode hd, hm]

/-- R64, R138: one step applies to the chip at most the request outstanding in WAIT. -/
theorem step_chip_cases {s t : State} (h : step s = .next t) :
    t.chip = s.chip ∨
    ∃ q, s.fsm = .wait ∧ currentRequest s.cmd s.stepIx = some q ∧ t.chip = s.chip.apply q := by
  rcases step_cases h with ⟨landed, rest, -, rfl⟩ | ⟨-, h⟩
  · exact State.chipAfterReset_cases landed { s with rst := rest }
  · exact (move_of_handshake h).chip_cases

/-- Settles O39: a step applies at most the outstanding request, and a request changes a cell only as its WRITE. -/
theorem chipChangesOnlyByWrite : Obligations.ChipChangesOnlyByWrite := by
  intro s t x hwf h hne
  rcases step_chip_cases h with hc | ⟨q, hf, hq, hc⟩
  · exact absurd (by rw [hc]) hne
  · rw [hc] at hne ⊢
    obtain ⟨d, a, v, rfl, hx, hread⟩ := Chip.write_of_read_apply_ne hwf hne
    exact ⟨hf, d, a, v, hq, hx, hread⟩

/-! ### The frame of a sequenced handshake (R21, R78) -/

/-- R106: the byte of a row goes to a result field its command names. -/
theorem Micro.deliver_frame {i : Instr} {m : Micro} (hm : m ∈ program i) (data : Option Byte) (s : State) :
    ((i ≠ .gettime ∧ i ≠ .getdate) → (m.deliver data s).res1 = s.res1 ∧ (m.deliver data s).res2 = s.res2) ∧
    ((i ≠ .init ∧ i ≠ .gettime ∧ i ≠ .getdate) → (m.deliver data s).res0 = s.res0) ∧
    (i ≠ .getdate → (m.deliver data s).res3 = s.res3) ∧ (i ≠ .gettime → (m.deliver data s).rfmt = s.rfmt) := by
  cases m with
  | configure | write | pointer => simp [Micro.deliver]
  | read act =>
    cases data with
    | none => simp [Micro.deliver]
    | some b =>
      rcases program_read_act hm with ⟨rfl, rfl⟩ | ⟨rfl, rfl | rfl | rfl⟩ | ⟨rfl, rfl | rfl | rfl | rfl⟩ <;>
        simp [Micro.deliver, Act.run]

/-- R66: an answer leaves every register as it was but the one of an answered WRITE. -/
theorem Answer.resolve_read {a : Answer} {q : Request} {c c' : Chip} {r : Result} {x : Nat} (hc : Memory.wf c.regs)
    (h : a.resolve q c = some (r, c')) (hx : ∀ d b v, q = .write d b v → x ≠ b.toNat) :
    Memory.read c'.regs x = Memory.read c.regs x := by
  rcases Answer.resolve_chip h with rfl | rfl
  · rfl
  · by_contra hne
    obtain ⟨d, b, v, hq, hxb, -⟩ := Chip.write_of_read_apply_ne hc hne
    exact hx d b v hq hxb

/-- Settles O38: by the cases of one handshake; an `ok` in WAIT delivers its byte as `Micro.deliver_frame` says. -/
theorem sequencedFrame : Obligations.SequencedFrame := by
  intro i s t hi hwf h
  rw [exec_sequenced hi] at h
  rcases sequencedStep_cases h with ⟨hf, rfl⟩ | ⟨m, hf, -, rfl⟩ | ⟨m, hf, hm, hw⟩ | ⟨hf, rfl⟩
  · simp [hf]
  · simp [hf]
  · have hrow : (tableRequests i)[s.stepIx.toNat]? = some m.request := by
      simp [tableRequests_eq_map_program, hm]
    have hregs : ∀ {a : Answer} {r : Result} {c : Chip}, a.resolve m.request s.chip = some (r, c) → ∀ x,
        (∀ d b v, s.fsm = .wait → (tableRequests i)[s.stepIx.toNat]? = some (.write d b v) → x ≠ b.toNat) →
        Memory.read c.regs x = Memory.read s.chip.regs x := fun hr x hx =>
      Answer.resolve_read hwf hr fun d b v hq => hx d b v hf (hq ▸ hrow)
    rcases awaitResponse_cases hw with ⟨-, rfl⟩ | ⟨a, rest, e, c, -, hr, rfl⟩ | ⟨a, rest, data, c, -, hr, rfl⟩
    · simp
    · simpa [hf] using hregs hr
    · obtain ⟨h12, h0, h3, hfmt⟩ :=
        Micro.deliver_frame (List.mem_of_getElem? hm) data { s with answers := rest, chip := c }
      rcases State.succeed_cases (s := { s with answers := rest, chip := c }) hm data with heq | ⟨-, heq⟩ <;>
      · rw [heq]
        exact ⟨by simp, by simp, by simp, by simp, by simp, by simp, fun hi => (h12 hi).imp .inl .inl,
          fun hi => .inl (h0 hi), fun hi => .inl (h3 hi), fun hi => .inl (hfmt hi), by simpa using hregs hr,
          fun hn => absurd hf hn⟩
  · simp [hf]

/-! ### The invariant -/

/-- The invariant speaks of no port: it does not see the reset input. -/
theorem State.Inv.with_rst {s : State} (h : s.Inv) (rst : List RstLevel) : State.Inv { s with rst := rst } :=
  ⟨h.memory, h.held, h.outstanding, h.unfinished, h.finished, h.errorValue, h.errorResults, h.contract⟩

/-- Outside ISSUE and WAIT the clauses about a running command say nothing. -/
theorem State.Inv.of_not_running {t : State} (hrun : t.fsm = .idle ∨ t.fsm = .done) (hmem : Memory.wf t.chip.regs)
    (hfin : t.fsm = .done → t.status.isSome = true) (hval : t.err.isSome = true ↔ t.status = some .transportError)
    (hres : t.status = some .transportError ∨ t.status = some .illegalCommand →
      t.res0 = none ∧ t.res1 = none ∧ t.res2 = none ∧ t.res3 = none ∧ t.rfmt = none)
    (hcon : ∀ q ∈ t.issued, requestInContract q) : t.Inv where
  memory := hmem
  held := by rcases hrun with hf | hf <;> simp [State.running, hf]
  outstanding := by rcases hrun with hf | hf <;> simp [hf]
  unfinished := by rcases hrun with hf | hf <;> simp [State.running, hf]
  finished := hfin
  errorValue := hval
  errorResults := hres
  contract := hcon

/-- Settles O52: the block is in IDLE with no cell, no STATUS, no ERR and no request. -/
theorem invariantAtReset : Obligations.InvariantAtReset :=
  .of_not_running (.inl rfl) (by decide) (by decide) (by decide) (fun _ => ⟨rfl, rfl, rfl, rfl, rfl⟩)
    (fun _ hq => absurd hq List.not_mem_nil)

/-- R23, R24: while a command runs there is no ERR. -/
theorem State.Inv.err_of_running {s : State} (h : s.Inv) (hrun : s.running) : s.err = none := by
  simpa [h.unfinished hrun] using h.errorValue

/-- R138: a reset keeps the invariant. -/
theorem State.Inv.hardReset {s : State} (h : s.Inv) (landed : Bool) : (s.hardReset landed).Inv := by
  refine .of_not_running (.inl rfl) ?_ (by simp) (by simp) (by simp) h.contract
  rcases State.chipAfterReset_cases landed s with hc | ⟨q, -, -, hc⟩
  · simpa [hc] using h.memory
  · simpa [hc] using Chip.wf_apply h.memory q

/-- R66: an answer keeps the chip's cells in canonical form. -/
theorem Answer.wf_resolve {a : Answer} {q : Request} {c c' : Chip} {r : Result} (hc : Memory.wf c.regs)
    (h : a.resolve q c = some (r, c')) : Memory.wf c'.regs := by
  rcases Answer.resolve_chip h with rfl | rfl
  · exact hc
  · exact Chip.wf_apply hc q

/-- R100: acceptance of a sequenced command stands at its first row, which is no READ. -/
theorem State.Inv.accept {s : State} (h : s.Inv) {i : Instr} (hi : sequenced i = true) (port : List CmdWord) :
    State.Inv { State.latch (encode i) { s with cmds := port } with fsm := .issue } where
  memory := h.memory
  held := fun _ => by
    obtain ⟨m, hm, hread⟩ := program_first hi
    exact ⟨m, by simpa [currentMicro_of_decode (decode_encode i)] using hm, by simp [hread]⟩
  outstanding := by simp
  unfinished := by simp
  finished := by simp
  errorValue := by simp
  errorResults := by simp
  contract := h.contract

/-- R102: the request taken is the row's, and it is in the contract. -/
theorem State.Inv.takeRequest {s : State} (h : s.Inv) {i : Instr} {m : Micro} (hf : s.fsm = .issue)
    (hd : decode s.cmd = .ok i) (hm : (program i)[s.stepIx.toNat]? = some m) : (s.takeRequest m.request).Inv where
  memory := h.memory
  held := fun _ => h.held (.inl hf)
  outstanding := fun _ => by simp [currentRequest, currentMicro_of_decode hd, hm]
  unfinished := fun _ => h.unfinished (.inl hf)
  finished := by simp
  errorValue := h.errorValue
  errorResults := h.errorResults
  contract := fun q hq => by
    rcases List.mem_append.1 hq with hq | hq
    · exact h.contract q hq
    · rw [List.mem_singleton.1 hq]
      exact program_inContract (List.mem_of_getElem? hm)

/-- R103: after an `ok` that is not the last, STEP stands at the next row; where that is a READ, the row answered was
its pointer write. -/
theorem State.Inv.next {s : State} (h : s.Inv) {i : Instr} {m : Micro} {a : Answer} {rest : List Answer}
    {data : Option Byte} {c : Chip} (hf : s.fsm = .wait) (hd : decode s.cmd = .ok i)
    (hm : (program i)[s.stepIx.toNat]? = some m) (hr : a.resolve m.request s.chip = some (.ok data, c))
    (hk : s.stepIx.toNat + 1 < (program i).length) :
    (m.deliver data { s with answers := rest, chip := c }).advance.Inv where
  memory := by simpa using Answer.wf_resolve h.memory hr
  held := fun _ => by
    refine ⟨(program i)[s.stepIx.toNat + 1], ?_, fun hread => ?_⟩
    · simp [currentMicro_of_decode hd, stepIx_succ_toNat hk, hk]
    obtain ⟨p, rfl⟩ := pointer_before_read hm (List.getElem?_eq_getElem hk) hread
    simp [Answer.resolve_ok_chip hr, Micro.request, Chip.apply]
  outstanding := by simp
  unfinished := fun _ => by simpa using h.unfinished (.inr hf)
  finished := by simp
  errorValue := by simpa using h.errorValue
  errorResults := by simp [h.unfinished (.inr hf)]
  contract := by simpa using h.contract

/-- One handshake keeps the invariant. -/
theorem Move.keeps_inv {s t : State} (h : Move s t) (hs : s.Inv) : t.Inv := by
  cases h with
  | hold => exact hs
  | refuse => exact .of_not_running (.inr rfl) hs.memory (by simp) (by simp) (by simp) hs.contract
  | codec =>
    exact .of_not_running (.inr rfl) (by simpa using hs.memory) (by simp) (by simp) (by simp)
      (by simpa using hs.contract)
  | accept _ _ _ hi => exact hs.accept hi _
  | take hf hd hm => exact hs.takeRequest hf hd hm
  | fail _ _ _ _ hr =>
    exact .of_not_running (.inr rfl) (Answer.wf_resolve hs.memory hr) (by simp) (by simp) (by simp) hs.contract
  | last hf _ _ _ hr =>
    exact .of_not_running (.inr rfl) (by simpa using Answer.wf_resolve hs.memory hr) (by simp)
      (by simp [hs.err_of_running (.inr hf)]) (by simp) (by simpa using hs.contract)
  | next hf hd hm _ hr hk => exact hs.next hf hd hm hr hk
  | respond => exact .of_not_running (.inl rfl) hs.memory (by simp) hs.errorValue hs.errorResults hs.contract

/-- Settles O53: a step is a reset or one move of the sequencer, and each keeps the invariant. -/
theorem stepKeepsInvariant : Obligations.StepKeepsInvariant := by
  intro s t hs h
  rcases step_cases h with ⟨landed, rest, -, rfl⟩ | ⟨-, h⟩
  · exact (hs.with_rst rest).hardReset landed
  · exact (move_of_handshake h).keeps_inv (hs.with_rst s.rst.tail)

end Machine

end Sys2Proof
end

section
/-! PROOFS. The statements about the transport and the chip behind it: no step stops, the command word, the requests
that leave, a failed WRITE, the chip's cells and the reference chip. First what each handshake answers, the other
direction of `exec_cases` and `handshake_cases`; then each statement after the facts it needs. -/

namespace Sys2Proof

namespace Machine

/-! ### Command words -/

/-- R70 to R76: a legal word is the word of its command. -/
theorem encode_of_decode {w : CmdWord} {i : Instr} (h : decode w = .ok i) : encode i = w := by
  obtain ⟨hrsv, h⟩ := decode_eq_ok_iff.1 h
  refine Eq.trans ?_ (assembleWord_fields w hrsv)
  simp only [decodeByte_eq_ok_iff, decodePlain_eq_ok_iff, decodeEnchours_eq_ok_iff, decodeSettime_eq_ok_iff,
    decodeSetdate_eq_ok_iff] at h
  rcases h with ⟨hop, ht, h3, h2, h1, rfl⟩ | ⟨hop, ht, h3, h2, h1, rfl⟩ | ⟨hop, f, hf, h3, h2, h1, rfl⟩ |
    ⟨hop, ht, h3, h2, h1, rfl⟩ | ⟨hop, ht, h3, h2, h1, rfl⟩ | ⟨hop, ht, h3, h2, h1, rfl⟩ |
    ⟨hop, ht, h3, h2, h1, h0, rfl⟩ | ⟨hop, f, hf, h3, rfl⟩ | ⟨hop, ht, rfl⟩ | ⟨hop, ht, h3, h2, h1, h0, rfl⟩ |
    ⟨hop, ht, h3, h2, h1, h0, rfl⟩
  case inr.inr.inl | inr.inr.inr.inr.inr.inr.inr.inl => simp [encode, fmtTag_of_fmtOfTag hf, *]
  all_goals simp [encode, *]

/-! ### What a handshake answers -/

@[simp] theorem codecWrite_cmd (i : Instr) (s : State) : (codecWrite i s).cmd = s.cmd := by cases i <;> rfl

/-- R101: only a sequenced command has rows. -/
theorem sequenced_of_row {i : Instr} {k : Nat} {m : Micro} (hm : (program i)[k]? = some m) : sequenced i = true := by
  cases hi : sequenced i with
  | true => rfl
  | false => simp [program_codec hi] at hm

/-- R100: a sequenced command is accepted in IDLE. -/
theorem exec_of_idle {i : Instr} {s : State} (hi : sequenced i = true) (hf : s.fsm = .idle) :
    exec i s = .next { s.latch (encode i) with fsm := .issue } := by
  rw [exec_sequenced hi, sequencedStep, hf]

/-- R100, R101: every command is accepted in IDLE. -/
theorem exec_idle_answers (i : Instr) {s : State} (hf : s.fsm = .idle) : ∃ t, exec i s = .next t := by
  cases hi : sequenced i with
  | true => exact ⟨_, exec_of_idle hi hf⟩
  | false => exact ⟨_, by rw [exec_codec hi, codecStep, hf]⟩

/-- R102: in ISSUE the request of the row is taken. -/
theorem exec_of_issue {i : Instr} {s : State} {m : Micro} (hf : s.fsm = .issue)
    (hm : (program i)[s.stepIx.toNat]? = some m) : exec i s = .next (s.takeRequest m.request) := by
  simp only [exec_sequenced (sequenced_of_row hm), sequencedStep, hf, hm]

/-- R103: in WAIT the response to the row's request is awaited. -/
theorem exec_of_wait {i : Instr} {s : State} {m : Micro} (hf : s.fsm = .wait)
    (hm : (program i)[s.stepIx.toNat]? = some m) : exec i s = awaitResponse (program i) m s := by
  simp only [exec_sequenced (sequenced_of_row hm), sequencedStep, hf, hm]

/-- R104: in DONE the response is taken. -/
theorem exec_of_done (i : Instr) {s : State} (hf : s.fsm = .done) : exec i s = .next s.respond := by
  cases hi : sequenced i with
  | true => rw [exec_sequenced hi, sequencedStep, hf]
  | false => rw [exec_codec hi, codecStep, hf]

theorem awaitResponse_of_nil {p : List Micro} {m : Micro} {s : State} (ha : s.answers = []) :
    awaitResponse p m s = .next s := by
  rw [awaitResponse, ha]

theorem awaitResponse_of_err {p : List Micro} {m : Micro} {s : State} {a : Answer} {rest : List Answer} {e : TErr}
    {c : Chip} (ha : s.answers = a :: rest) (hr : a.resolve m.request s.chip = some (.err e, c)) :
    awaitResponse p m s = .next ({ s with answers := rest, chip := c }.abort e) := by
  simp only [awaitResponse, ha, hr]

theorem awaitResponse_of_ok {p : List Micro} {m : Micro} {s : State} {a : Answer} {rest : List Answer}
    {data : Option Byte} {c : Chip} (ha : s.answers = a :: rest)
    (hr : a.resolve m.request s.chip = some (.ok data, c)) :
    awaitResponse p m s = .next ({ s with answers := rest, chip := c }.succeed p m data) := by
  simp only [awaitResponse, ha, hr]

/-- R102, R103: in ISSUE and WAIT the handshake is the held command's. -/
theorem handshake_of_running {s : State} {i : Instr} (hrun : s.running) (hd : decode s.cmd = .ok i) :
    handshake s = exec i s := by
  rcases hrun with hf | hf <;> simp only [handshake, hf, resumeHeld, hd]

/-- R104: in DONE the one handshake is the response's. -/
theorem handshake_of_done {s : State} (hf : s.fsm = .done) : handshake s = .next s.respond := by
  simp only [handshake, hf]

/-- R137: where the reset input is 1 a step is a reset. -/
theorem step_of_rst_high {s : State} {landed : Bool} {rest : List RstLevel} (h : s.rst = .high landed :: rest) :
    step s = .next (State.hardReset landed { s with rst := rest }) := by
  simp only [step, transition, h]

/-- R105: where the reset input is low for ever a step is a handshake. -/
theorem step_of_rst_nil {s : State} (h : s.rst = []) : step s = handshake s := by
  simp only [step, transition, h]

/-- R25: a state that stands at a row holds the command of that row. -/
theorem exists_decode_of_currentMicro {w : CmdWord} {k : BitVec 3} {m : Micro} (h : currentMicro w k = some m) :
    ∃ i, decode w = .ok i ∧ (program i)[k.toNat]? = some m := by
  unfold currentMicro at h
  split at h
  · next i hd => exact ⟨i, hd, h⟩
  · cases h

/-! ### No step stops -/

/-- R64, R66: a request is answered whatever it is, a READ where the chip's pointer is set (U16). -/
theorem Answer.resolve_isSome (a : Answer) {q : Request} {c : Chip} (h : q.isRead = true → c.ptr.isSome = true) :
    (a.resolve q c).isSome = true := by
  cases a with
  | oracle => rfl
  | refChip =>
    simp only [Answer.resolve, Chip.reply]
    split
    · rfl
    · cases q with
      | configure | write | pointer => rfl
      | read => simpa using h rfl

/-- R103: the wait for a response stops only where the chip has no pointer for a READ. -/
theorem awaitResponse_answers (p : List Micro) {m : Micro} {s : State}
    (h : m.request.isRead = true → s.chip.ptr.isSome = true) : ∃ t, awaitResponse p m s = .next t := by
  match ha : s.answers with
  | [] => exact ⟨_, awaitResponse_of_nil ha⟩
  | a :: rest =>
    obtain ⟨⟨r, c⟩, hr⟩ := Option.isSome_iff_exists.1 (a.resolve_isSome h)
    cases r with
    | ok data => exact ⟨_, awaitResponse_of_ok ha hr⟩
    | err e => exact ⟨_, awaitResponse_of_err ha hr⟩

/-- R100, R118: every word on the command port is taken. -/
theorem acceptNext_answers {s : State} (hf : s.fsm = .idle) : ∃ t, acceptNext s = .next t := by
  unfold acceptNext
  split
  · exact ⟨_, rfl⟩
  · split
    · next i _ => exact exec_idle_answers i hf
    · exact ⟨_, rfl⟩

/-- R105, R119, R122: a handshake in a state of the invariant answers a next state. -/
theorem State.Inv.handshake_answers {s : State} (h : s.Inv) : ∃ t, handshake s = .next t := by
  match hf : s.fsm with
  | .idle => exact handshake_of_idle hf ▸ acceptNext_answers hf
  | .done => exact ⟨_, handshake_of_done hf⟩
  | .issue =>
    obtain ⟨m, hm, -⟩ := h.held (.inl hf)
    obtain ⟨i, hd, hm⟩ := exists_decode_of_currentMicro hm
    exact ⟨_, (handshake_of_running (.inl hf) hd).trans (exec_of_issue hf hm)⟩
  | .wait =>
    obtain ⟨m, hm, hptr⟩ := h.held (.inr hf)
    obtain ⟨i, hd, hm⟩ := exists_decode_of_currentMicro hm
    rw [handshake_of_running (.inr hf) hd, exec_of_wait hf hm]
    exact awaitResponse_answers _ hptr

/-- Settles O54: a reset always answers, and without one the handshake does, by the invariant. -/
theorem noStepStops : Obligations.NoStepStops := by
  intro s hs
  cases hrst : rstHigh s with
  | false => exact step_of_rst_low hrst ▸ (hs.with_rst s.rst.tail).handshake_answers
  | true =>
    match hr : s.rst with
    | .high landed :: rest => exact ⟨_, step_of_rst_high hr⟩
    | [] | .low :: _ => simp [rstHigh, hr] at hrst

/-! ### The command port -/

/-- R100: acceptance puts the word taken into CMD. -/
theorem Move.cmd_of_accept {s t : State} {w : CmdWord} {port : List CmdWord} (h : Move s t) (hf : s.fsm = .idle)
    (hw : s.cmds = w :: port) : t.cmd = w := by
  cases h with
  | hold h => simp [hf, hw] at h
  | refuse _ hw' => simp_all
  | codec _ hw' hd | accept _ hw' hd => simp_all [encode_of_decode hd]
  | take hf' | fail hf' | last hf' | next hf' | respond hf' => simp [hf] at hf'

/-- R19: outside IDLE no handshake changes CMD. -/
theorem Move.cmd_of_not_idle {s t : State} (h : Move s t) (hf : s.fsm ≠ .idle) : t.cmd = s.cmd := by
  cases h with
  | refuse hf' | codec hf' | accept hf' => exact absurd hf' hf
  | hold | take | fail | last | next | respond => simp

/-- The state with other words on the command port. -/
def State.withCmds (port : List CmdWord) (s : State) : State := { s with cmds := port }

theorem Micro.deliver_withCmds (m : Micro) (data : Option Byte) (port : List CmdWord) (s : State) :
    m.deliver data (s.withCmds port) = (m.deliver data s).withCmds port := by
  cases m with
  | configure | write | pointer => rfl
  | read act =>
    cases data with
    | none => rfl
    | some b => cases act <;> rfl

theorem State.succeed_withCmds (p : List Micro) (m : Micro) (data : Option Byte) (port : List CmdWord) (s : State) :
    State.succeed p m data (s.withCmds port) = (s.succeed p m data).withCmds port := by
  simp only [State.succeed, Micro.deliver_withCmds, apply_ite (State.withCmds port)]
  rfl

/-- R63: the wait for a response does not read the command port. -/
theorem awaitResponse_withCmds {p : List Micro} {m : Micro} {s t : State} (port : List CmdWord)
    (h : awaitResponse p m s = .next t) : awaitResponse p m (s.withCmds port) = .next (t.withCmds port) := by
  rcases awaitResponse_cases h with ⟨ha, rfl⟩ | ⟨a, rest, e, c, ha, hr, rfl⟩ | ⟨a, rest, data, c, ha, hr, rfl⟩
  · exact awaitResponse_of_nil ha
  · exact awaitResponse_of_err (s := s.withCmds port) ha hr
  · rw [awaitResponse_of_ok (s := s.withCmds port) ha hr, ← State.succeed_withCmds]
    rfl

/-- R63: outside IDLE a command's handshake does not read the command port. -/
theorem exec_withCmds {i : Instr} {s t : State} (port : List CmdWord) (hf : s.fsm ≠ .idle) (h : exec i s = .next t) :
    exec i (s.withCmds port) = .next (t.withCmds port) := by
  rcases exec_cases h with ⟨hf', -⟩ | ⟨hf', -⟩ | ⟨m, hf', hm, rfl⟩ | ⟨m, hf', hm, hw⟩ | ⟨hf', rfl⟩
  · exact absurd hf' hf
  · exact absurd hf' hf
  · exact exec_of_issue (s := s.withCmds port) hf' hm
  · exact (exec_of_wait (s := s.withCmds port) hf' hm).trans (awaitResponse_withCmds port hw)
  · exact exec_of_done i (s := s.withCmds port) hf'

/-- R63: outside IDLE a handshake does not read the command port. -/
theorem handshake_withCmds {s t : State} (port : List CmdWord) (hf : s.fsm ≠ .idle) (h : handshake s = .next t) :
    handshake (s.withCmds port) = .next (t.withCmds port) := by
  rcases handshake_cases h with ⟨hf', -⟩ | ⟨_, _, _, hf', -⟩ | ⟨_, _, _, hf', -⟩ | ⟨i, hrun, hd, he⟩ | ⟨hf', rfl⟩
  · exact absurd hf' hf
  · exact absurd hf' hf
  · exact absurd hf' hf
  · exact (handshake_of_running (s := s.withCmds port) hrun hd).trans (exec_withCmds port hf he)
  · exact handshake_of_done (s := s.withCmds port) hf'

/-- R63, R137: outside IDLE a step does not read the command port. -/
theorem step_withCmds {s t : State} (port : List CmdWord) (hf : s.fsm ≠ .idle) (h : step s = .next t) :
    step (s.withCmds port) = .next (t.withCmds port) := by
  rcases step_cases h with ⟨landed, rest, hr, rfl⟩ | ⟨hrst, h⟩
  · exact step_of_rst_high (s := s.withCmds port) hr
  · exact (step_of_rst_low (s := s.withCmds port) hrst).trans
      (handshake_withCmds (s := { s with rst := s.rst.tail }) port hf h)

/-- Settles O26: the moves of acceptance latch the word, and no other move reads the port or changes CMD. -/
theorem commandWordLatched : Obligations.CommandWordLatched :=
  ⟨fun s hf => by simp [cmdReady, hf],
    fun s hf hrst => by simp [cmdReady, hf, hrst],
    fun s t w port hrst hf hw h => (move_of_step hrst h).cmd_of_accept hf hw,
    fun s t hrst hf h => (move_of_step hrst h).cmd_of_not_idle hf,
    fun s t port hf h => step_withCmds port hf h⟩

/-! ### The requests that leave -/

/-- R102, R106: a handshake issues no request, or in ISSUE the one presented, and it is in the contract. -/
theorem Move.issued_cases {s t : State} (h : Move s t) :
    t.issued = s.issued ∨
    ∃ q, s.fsm = .issue ∧ t.fsm = .wait ∧ presentedRequest s = some q ∧ t.issued = s.issued ++ [q] ∧
      requestInContract q := by
  cases h with
  | hold | refuse | codec | accept | fail | last | next | respond => left; simp
  | take hf hd hm =>
    refine .inr ⟨_, hf, rfl, ?_, rfl, program_inContract (List.mem_of_getElem? hm)⟩
    simp [presentedRequest, treqValid, hf, currentRequest, currentMicro_of_decode hd, hm]

/-- R102, R139: a step issues no request, or without a reset in ISSUE the one presented, and it is in the contract. -/
theorem step_issued_cases {s t : State} (h : step s = .next t) :
    t.issued = s.issued ∨
    ∃ q, s.fsm = .issue ∧ rstHigh s = false ∧ t.fsm = .wait ∧ presentedRequest s = some q ∧
      t.issued = s.issued ++ [q] ∧ requestInContract q := by
  rcases step_cases h with ⟨landed, rest, -, rfl⟩ | ⟨hrst, h⟩
  · exact .inl rfl
  · refine (move_of_handshake h).issued_cases.imp id ?_
    rintro ⟨q, hf, ht, hq, hiss, hcon⟩
    exact ⟨q, hf, hrst, ht, hq, hiss, hcon⟩

/-- R43, R44, R135: every request that leaves in a step is in the contract. -/
theorem step_issues_inContract {s t : State} (h : step s = .next t) :
    ∃ new, t.issued = s.issued ++ new ∧ ∀ q ∈ new, requestInContract q := by
  rcases step_issued_cases h with hiss | ⟨q, -, -, -, -, hiss, hcon⟩
  · exact ⟨[], by simp [hiss], by simp⟩
  · exact ⟨[q], hiss, by simpa using hcon⟩

theorem requestInContract.dev_eq {q : Request} (h : requestInContract q) : q.dev = 0x68#7 := by
  cases q with
  | configure | write | pointer => exact h.1
  | read => exact h

theorem requestInContract.first_byte_le {q : Request} (h : requestInContract q) {a : Byte} {rest : List Byte}
    (hq : q.bytes = a :: rest) : a.toNat ≤ 6 := by
  cases q with
  | configure | read => cases hq
  | write => cases hq; exact h.2.1
  | pointer => cases hq; exact h.2

/-- Settles O40: the contract names the one device address. -/
theorem requestsGoToOneDevice : Obligations.RequestsGoToOneDevice := by
  intro s t h
  obtain ⟨new, hiss, hcon⟩ := step_issues_inContract h
  exact ⟨new, hiss, fun q hq => (hcon q hq).dev_eq⟩

/-- Settles O41: the contract bounds the register address, the first byte sent. -/
theorem onlySevenRegisterAddresses : Obligations.OnlySevenRegisterAddresses := by
  intro s t h
  obtain ⟨new, hiss, hcon⟩ := step_issues_inContract h
  exact ⟨new, hiss, fun q hq a rest hb => (hcon q hq).first_byte_le hb⟩

/-- R58: from WAIT the next request is reached by taking one answer. -/
theorem Move.answer_taken {s t : State} (h : Move s t) (hf : s.fsm = .wait) (ht : t.fsm = .issue) :
    ∃ a, s.answers = a :: t.answers := by
  cases h with
  | next _ _ _ ha => exact ⟨_, by simpa using ha⟩
  | hold => simp [hf] at ht
  | accept hf' => simp [hf] at hf'
  | refuse | codec | take | fail | last | respond => simp at ht

/-- Settles O43: by what one step issues, and by the one move from WAIT to ISSUE. -/
theorem oneRequestOutstanding : Obligations.OneRequestOutstanding := by
  intro s t h
  refine ⟨?_, fun hf ht => ?_⟩
  · rcases step_issued_cases h with hiss | ⟨q, hf, hrst, ht, hq, hiss, -⟩
    · exact .inr hiss
    · exact .inl ⟨hf, hrst, ht, q, hq, hiss⟩
  · rcases step_cases h with ⟨_, _, -, rfl⟩ | ⟨-, h⟩
    · simp at ht
    · exact (move_of_handshake h).answer_taken hf ht

/-! ### The chip behind the transport -/

/-- R32, R66: what a register holds after a WRITE. -/
theorem Chip.value_apply_write {c : Chip} (hc : Memory.wf c.regs) (d : DevAddr) (a x : RegAddr) (v : Byte) :
    (c.apply (.write d a v)).value x = if x = a then v else c.value x := by
  unfold Chip.value
  split
  · next h => simp [h, Chip.apply]
  · next h => rw [Chip.apply, Memory.read_write_other hc v (mt BitVec.eq_of_toNat_eq h)]

/-- R51: an error answer leaves the chip as it was, or it takes the request, as the answer says. -/
theorem Answer.resolve_oracle_err {r : TResp} (h : r.ok = false) (landed : Bool) (q : Request) (c : Chip) :
    (Answer.oracle r landed).resolve q c = some (.err r.err, if landed = true then c.apply q else c) := by
  simp [Answer.resolve, TResp.result, h]

/-- R123: in WAIT an error answer ends the command. -/
theorem exec_of_wait_err {i : Instr} {s : State} {q : Request} {r : TResp} {landed : Bool} {rest : List Answer}
    (hf : s.fsm = .wait) (hq : (tableRequests i)[s.stepIx.toNat]? = some q) (hr : r.ok = false)
    (ha : s.answers = .oracle r landed :: rest) :
    exec i s =
      .next ({ s with answers := rest, chip := if landed = true then s.chip.apply q else s.chip }.abort r.err) := by
  rw [tableRequests_eq_map_program, List.getElem?_map, Option.map_eq_some_iff] at hq
  obtain ⟨m, hm, rfl⟩ := hq
  rw [exec_of_wait hf hm, awaitResponse_of_err ha (Answer.resolve_oracle_err hr ..)]

/-- Settles O46: the oracle's `landed` chooses the outcome, and a WRITE changes its own register only. -/
theorem failedWriteBothWays : Obligations.FailedWriteBothWays := by
  intro i s d a v r rest hf hwf hq hr
  refine ⟨⟨_, exec_of_wait_err (landed := true) hf hq hr rfl, ?_, fun x hx => ?_⟩,
    ⟨_, exec_of_wait_err (landed := false) hf hq hr rfl, rfl⟩⟩
  · exact Memory.read_write_self _ _ _
  · exact Memory.read_write_other hwf v hx

/-- Settles O55: a step applies at most one request to the chip, and a request keeps the canonical form. -/
theorem stepKeepsChipCellsCanonical : Obligations.StepKeepsChipCellsCanonical := by
  intro s t hwf h
  rcases step_chip_cases h with hc | ⟨q, -, -, hc⟩
  · exact hc ▸ hwf
  · exact hc ▸ Chip.wf_apply hwf q

/-- Settles O47: each row is a branch of `Chip.reply`; a register after a WRITE is `Chip.value_apply_write`. -/
theorem referenceChipRows : Obligations.ReferenceChipRows := by
  intro c a v sp
  refine ⟨rfl, rfl, rfl, fun hp => ?_, fun hp => ?_, fun q hq => if_pos hq, fun hwf => ⟨?_, fun x hx => ?_⟩⟩
  · simp [Answer.resolve, Chip.reply, Request.dev, Config.devAddr, hp]
  · simp [Answer.resolve, Chip.reply, Request.dev, Config.devAddr, hp, Chip.apply]
  · exact (Chip.value_apply_write hwf 0x68#7 a a v).trans (if_pos rfl)
  · exact (Chip.value_apply_write hwf 0x68#7 a x v).trans (if_neg hx)

end Machine

end Sys2Proof
end

section
/-! PROOFS. What is set is got under the reference chip (20_memory.md R66). One induction over the rows of a
micro-program says what a whole command does under that chip; two commands one after the other give both statements. -/

namespace Sys2Proof

namespace Machine

/-! ### Runs of steps -/

theorem stepTimes_succ {s t : State} (n : Nat) (h : step s = .next t) : stepTimes (n + 1) s = stepTimes n t := by
  rw [stepTimes, h]

/-- A run of `m + n` steps is a run of `m` and then one of `n`. -/
theorem stepTimes_add {m : Nat} (n : Nat) {s t : State} (h : stepTimes m s = .next t) :
    stepTimes (m + n) s = stepTimes n t := by
  induction m generalizing s with
  | zero => cases h; rw [Nat.zero_add]
  | succ m ih =>
    rw [Nat.succ_add]
    match hs : step s with
    | .next u => exact (stepTimes_succ _ hs).trans (ih (stepTimes_succ m hs ▸ h))
    | .fault _ | .refused _ => rw [stepTimes, hs] at h; cases h

/-- R100: a sequenced command presented to an idle block is accepted. -/
theorem step_accepts {i : Instr} {s : State} {port : List CmdWord} (hi : sequenced i = true) (hf : s.fsm = .idle)
    (hrst : s.rst = []) (hw : s.cmds = encode i :: port) :
    step s = .next { State.latch (encode i) { s with cmds := port } with fsm := .issue } := by
  rw [step_of_rst_nil hrst, handshake_of_idle hf]
  simp only [acceptNext, hw, decode_encode]
  exact exec_of_idle hi hf

/-! ### A micro-program under the reference chip (R66) -/

/-- R66: the byte the reference chip answers to a row, for a READ the register at its pointer. -/
def Micro.refByte (m : Micro) (c : Chip) : Option Byte :=
  match m with
  | .read _ => c.ptr.map c.value
  | .configure => none
  | .write _ _ => none
  | .pointer _ => none

/-- R66: the reference chip answers a row `ok` and takes its request, a READ where its pointer is set. -/
theorem Micro.resolve_refChip {m : Micro} {c : Chip} (h : m.request.isRead = true → c.ptr.isSome = true) :
    Answer.refChip.resolve m.request c = some (.ok (m.refByte c), c.apply m.request) := by
  cases m with
  | configure | write | pointer => rfl
  | read act =>
    obtain ⟨a, ha⟩ := Option.isSome_iff_exists.1 (h rfl)
    simp [Answer.resolve, Chip.reply, Request.dev, Micro.request, Micro.refByte, ha]

/-- R102, R103: what a row answered by the reference chip does to the state but for FSM and STEP. -/
def Micro.refRow (m : Micro) (s : State) : State :=
  m.deliver (m.refByte s.chip)
    { s with answers := s.answers.tail, chip := s.chip.apply m.request, issued := s.issued ++ [m.request] }

/-- R106: what rows answered by the reference chip do to the state but for FSM and STEP. -/
def refRows (rows : List Micro) (s : State) : State := rows.foldl (fun t m => m.refRow t) s

@[simp] theorem refRows_nil (s : State) : refRows [] s = s := rfl
@[simp] theorem refRows_cons (m : Micro) (rows : List Micro) (s : State) :
    refRows (m :: rows) s = refRows rows (m.refRow s) := rfl

@[simp] theorem Micro.refRow_cmds (m : Micro) (s : State) : (m.refRow s).cmds = s.cmds := by simp [Micro.refRow]
@[simp] theorem Micro.refRow_rst (m : Micro) (s : State) : (m.refRow s).rst = s.rst := by simp [Micro.refRow]
@[simp] theorem Micro.refRow_cmd (m : Micro) (s : State) : (m.refRow s).cmd = s.cmd := by simp [Micro.refRow]
@[simp] theorem Micro.refRow_answers (m : Micro) (s : State) : (m.refRow s).answers = s.answers.tail := by
  simp [Micro.refRow]
@[simp] theorem Micro.refRow_chip (m : Micro) (s : State) : (m.refRow s).chip = s.chip.apply m.request := by
  simp [Micro.refRow]

@[simp] theorem refRows_cmds (rows : List Micro) (s : State) : (refRows rows s).cmds = s.cmds := by
  induction rows generalizing s with
  | nil => rfl
  | cons m rows ih => simp [ih]

@[simp] theorem refRows_rst (rows : List Micro) (s : State) : (refRows rows s).rst = s.rst := by
  induction rows generalizing s with
  | nil => rfl
  | cons m rows ih => simp [ih]

@[simp] theorem refRows_answers (rows : List Micro) (s : State) :
    (refRows rows s).answers = s.answers.drop rows.length := by
  induction rows generalizing s with
  | nil => rfl
  | cons m rows ih => simp [ih]

/-- R66: the rows apply their requests to the chip, in order. -/
@[simp] theorem refRows_chip (rows : List Micro) (s : State) :
    (refRows rows s).chip = (rows.map Micro.request).foldl Chip.apply s.chip := by
  induction rows generalizing s with
  | nil => rfl
  | cons m rows ih => simp [ih]

/-- The state at another place of the sequencer. -/
def State.place (f : Fsm) (k : BitVec 3) (s : State) : State := { s with fsm := f, stepIx := k }

@[simp] theorem State.place_stepIx (f : Fsm) (k : BitVec 3) (s : State) : (s.place f k).stepIx = k := rfl
@[simp] theorem State.place_cmd (f : Fsm) (k : BitVec 3) (s : State) : (s.place f k).cmd = s.cmd := rfl
@[simp] theorem State.place_chip (f : Fsm) (k : BitVec 3) (s : State) : (s.place f k).chip = s.chip := rfl
@[simp] theorem State.place_cmds (f : Fsm) (k : BitVec 3) (s : State) : (s.place f k).cmds = s.cmds := rfl
@[simp] theorem State.place_answers (f : Fsm) (k : BitVec 3) (s : State) : (s.place f k).answers = s.answers := rfl
@[simp] theorem State.place_rst (f : Fsm) (k : BitVec 3) (s : State) : (s.place f k).rst = s.rst := rfl

theorem Micro.deliver_place (m : Micro) (data : Option Byte) (f : Fsm) (k : BitVec 3) (s : State) :
    m.deliver data (s.place f k) = (m.deliver data s).place f k := by
  cases m with
  | configure | write | pointer => rfl
  | read act =>
    cases data with
    | none => rfl
    | some b => cases act <;> rfl

theorem Micro.refRow_place (m : Micro) (f : Fsm) (k : BitVec 3) (s : State) :
    m.refRow (s.place f k) = (m.refRow s).place f k :=
  m.deliver_place (m.refByte s.chip) f k
    { s with answers := s.answers.tail, chip := s.chip.apply m.request, issued := s.issued ++ [m.request] }

theorem refRows_place (rows : List Micro) (f : Fsm) (k : BitVec 3) (s : State) :
    refRows rows (s.place f k) = (refRows rows s).place f k := by
  induction rows generalizing s with
  | nil => rfl
  | cons m rows ih => simp [Micro.refRow_place, ih]

/-- R102, R103: from ISSUE the reference chip takes a row's request and answers it `ok` in two steps. -/
theorem stepTimes_row {i : Instr} {m : Micro} {s : State} {rest : List Answer} (hf : s.fsm = .issue) (hrst : s.rst = [])
    (hd : decode s.cmd = .ok i) (hm : (program i)[s.stepIx.toNat]? = some m) (ha : s.answers = .refChip :: rest)
    (hptr : m.request.isRead = true → s.chip.ptr.isSome = true) (n : Nat) :
    stepTimes (n + 2) s =
      stepTimes n (if s.stepIx.toNat + 1 = (program i).length then ((m.refRow s).place .wait s.stepIx).finish .ok
        else (m.refRow s).place .issue (s.stepIx + 1#3)) := by
  have h1 : step s = .next (s.takeRequest m.request) := by
    rw [step_of_rst_nil hrst, handshake_of_running (.inl hf) hd, exec_of_issue hf hm]
  have h2 : step (s.takeRequest m.request) = .next (State.succeed (program i) m (m.refByte s.chip)
      { s.takeRequest m.request with answers := rest, chip := s.chip.apply m.request }) := by
    rw [step_of_rst_nil (s := s.takeRequest m.request) hrst,
      handshake_of_running (s := s.takeRequest m.request) (.inr rfl) hd,
      exec_of_wait (s := s.takeRequest m.request) rfl hm,
      awaitResponse_of_ok (s := s.takeRequest m.request) ha (Micro.resolve_refChip hptr)]
    rfl
  have hrow : m.deliver (m.refByte s.chip)
      { s.takeRequest m.request with answers := rest, chip := s.chip.apply m.request } =
      (m.refRow s).place .wait s.stepIx := by
    rw [← Micro.refRow_place, Micro.refRow]
    simp [State.place, State.takeRequest, ha]
  rw [stepTimes_succ _ h1, stepTimes_succ _ h2, State.succeed, hrow]
  rfl

/-- R103, R106: from ISSUE the reference chip answers the rows that are left, and the command ends with STATUS OK. -/
theorem stepTimes_rows {i : Instr} {rows : List Micro} {s : State} {rest : List Answer} (hf : s.fsm = .issue)
    (hrst : s.rst = []) (hd : decode s.cmd = .ok i) (hrows : (program i).drop s.stepIx.toNat = rows) (hne : rows ≠ [])
    (ha : s.answers = List.replicate rows.length .refChip ++ rest)
    (hptr : ∀ m, (program i)[s.stepIx.toNat]? = some m → m.request.isRead = true → s.chip.ptr.isSome = true) :
    ∃ k, stepTimes (2 * rows.length) s = .next (((refRows rows s).place .wait k).finish .ok) := by
  induction rows generalizing s with
  | nil => exact absurd rfl hne
  | cons m rows ih =>
    have hm : (program i)[s.stepIx.toNat]? = some m := by rw [← List.head?_drop, hrows, List.head?_cons]
    have hlen : s.stepIx.toNat + 1 + rows.length = (program i).length := by
      have := congrArg List.length hrows
      simp only [List.length_drop, List.length_cons] at this
      omega
    rw [List.length_cons, Nat.mul_succ, stepTimes_row hf hrst hd hm ha (hptr m hm)]
    cases rows with
    | nil => exact ⟨s.stepIx, by rw [if_pos (by simpa using hlen)]; rfl⟩
    | cons m' rows =>
      have hk : s.stepIx.toNat + 1 < (program i).length := by rw [List.length_cons] at hlen; omega
      have hk' := stepIx_succ_toNat hk
      have hptr' : ∀ m', (program i)[(s.stepIx + 1#3).toNat]? = some m' → m'.request.isRead = true →
          (m.refRow s).chip.ptr.isSome = true := by
        intro m' hm' hread
        obtain ⟨p, rfl⟩ := pointer_before_read hm (hk' ▸ hm') hread
        simp [Micro.request, Chip.apply]
      rw [if_neg hk.ne]
      obtain ⟨k, h⟩ := ih (s := (m.refRow s).place .issue (s.stepIx + 1#3)) rfl (by simpa using hrst)
        (by simpa using hd) (by simp [hk', ← List.tail_drop, hrows]) (by simp) (by simp [ha, List.replicate_succ]) hptr'
      exact ⟨k, by rw [h, refRows_place]; rfl⟩

/-- R100 to R103: a sequenced command presented to an idle block, answered by the reference chip. -/
theorem stepTimes_command {i : Instr} {s : State} {port : List CmdWord} {rest : List Answer} (hi : sequenced i = true)
    (hf : s.fsm = .idle) (hrst : s.rst = []) (hw : s.cmds = encode i :: port)
    (ha : s.answers = List.replicate (program i).length .refChip ++ rest) :
    ∃ k, stepTimes (2 * (program i).length + 1) s =
      .next (((refRows (program i) (State.latch (encode i) { s with cmds := port })).place .wait k).finish .ok) := by
  obtain ⟨m, hm, hread⟩ := program_first hi
  obtain ⟨k, h⟩ := stepTimes_rows (i := i) (rows := program i) (rest := rest)
    (s := (State.latch (encode i) { s with cmds := port }).place .issue 0#3) rfl hrst (decode_encode i) rfl
    (by rintro h; simp [h] at hm) ha (fun m' hm' hread' => by
      obtain rfl : m = m' := Option.some.inj (hm.symm.trans hm')
      simp [hread] at hread')
  exact ⟨k, by rw [stepTimes_succ _ (step_accepts hi hf hrst hw)]; exact h.trans (by rw [refRows_place]; rfl)⟩

/-- R104: two sequenced commands one after the other, answered by the reference chip: the second runs on the chip that
the requests of the first have left. -/
theorem stepTimes_two_commands {i j : Instr} {s : State} {port : List CmdWord} {rest : List Answer}
    (hi : sequenced i = true) (hj : sequenced j = true) (hf : s.fsm = .idle) (hrst : s.rst = [])
    (hw : s.cmds = encode i :: encode j :: port)
    (ha : s.answers = List.replicate ((program i).length + (program j).length) .refChip ++ rest) :
    ∃ u t : State, u.chip = ((program i).map Micro.request).foldl Chip.apply s.chip ∧
      stepTimes (2 * (program i).length + 1 + (2 * (program j).length + 1 + 1)) s = .next t ∧ t.fsm = .done ∧
      t.response = ((refRows (program j) (u.latch (encode j))).finish .ok).response := by
  rw [List.replicate_add, List.append_assoc] at ha
  obtain ⟨k, h⟩ := stepTimes_command hi hf hrst hw ha
  rw [stepTimes_add _ h]
  set v := ((refRows (program i) (State.latch (encode i) { s with cmds := encode j :: port })).place .wait k).finish .ok
    with hv
  have hresp : step v = .next v.respond := by
    rw [step_of_rst_nil (by simpa [hv] using hrst), handshake_of_done rfl]
  obtain ⟨k', h'⟩ := stepTimes_command (s := v.respond) (port := port) (rest := rest) hj rfl
    (by simpa [hv] using hrst) (by simp [hv]) (by simp [hv, ha])
  refine ⟨{ v.respond with cmds := port }, _, ?_, (stepTimes_succ _ hresp).trans h', rfl, rfl⟩
  simp [hv]

/-! ### What is set is got (R87, R90, R93) -/

/-- R87: below 100 the two BCD functions undo each other. -/
theorem bcd2bin_bin2bcd {v : Byte} (h : v.toNat < 100) : bcd2bin (bin2bcd v) = v := by
  revert v
  decide

/-- R93: below 80 the seconds round trip holds. -/
theorem decSec_encSec {v : Byte} (h : v.toNat < 80) : decSec (encSec v) = v := by
  revert v
  decide

/-- R90: the hours round trip on its sets. -/
theorem decHours_encHours {h : Byte} {f : Fmt}
    (hh : h.toNat < 20 ∨ (80 ≤ h.toNat ∧ h.toNat < 100) ∨ (f = .h24 ∧ h.toNat < 40)) :
    decHours (encHours h f) = (h, f) := by
  revert h
  cases f <;> decide

/-- R113: what GETTIME answers under the reference chip. -/
theorem gettime_response (u : State) :
    ((refRows (program .gettime) (u.latch (encode .gettime))).finish .ok).response =
      ⟨some .ok, some (decHours (u.chip.value 0x02#8)).2, none, some (decHours (u.chip.value 0x02#8)).1,
        some (bcd2bin (u.chip.value 0x01#8)), some (decSec (u.chip.value 0x00#8)), none⟩ := rfl

/-- R114: what GETDATE answers under the reference chip. -/
theorem getdate_response (u : State) :
    ((refRows (program .getdate) (u.latch (encode .getdate))).finish .ok).response =
      ⟨some .ok, none, some (bcd2bin (u.chip.value 0x06#8)), some (bcd2bin (u.chip.value 0x05#8)),
        some (bcd2bin (u.chip.value 0x03#8)), some (bcd2bin (u.chip.value 0x04#8)), none⟩ := rfl

/-- R111: what SETTIME's writes leave in the chip's registers. -/
theorem settime_values {c t : Chip} (hc : Memory.wf c.regs) (s m h : Byte) (f : Fmt)
    (ht : t = ((program (.settime s m h f)).map Micro.request).foldl Chip.apply c) :
    t.value 0x00#8 = encSec s ∧ t.value 0x01#8 = bin2bcd m ∧ t.value 0x02#8 = encHours h f := by
  subst ht
  simp (disch := solve_by_elim [Chip.wf_apply]) [program, settimeProgram, Micro.request, Chip.value_apply_write,
    Config.regSec, Config.regMin, Config.regHour]

/-- R112: what SETDATE's writes leave in the chip's registers. -/
theorem setdate_values {c t : Chip} (hc : Memory.wf c.regs) (d w mo y : Byte)
    (ht : t = ((program (.setdate d w mo y)).map Micro.request).foldl Chip.apply c) :
    t.value 0x04#8 = bin2bcd d ∧ t.value 0x03#8 = bin2bcd w ∧ t.value 0x05#8 = bin2bcd mo ∧
      t.value 0x06#8 = bin2bcd y := by
  subst ht
  simp (disch := solve_by_elim [Chip.wf_apply]) [program, setdateProgram, Micro.request, Chip.value_apply_write,
    Config.regDate, Config.regWday, Config.regMonth, Config.regYear]

/-- Settles O35: GETTIME reads the three registers as SETTIME's writes left them, and the codec round trips hold. -/
theorem setTimeThenGetTime : Obligations.SetTimeThenGetTime := by
  intro s sec mi ho f rest port hf hrst hwf hw ha hs hm hh
  obtain ⟨u, t, hu, hrun, hdone, hresp⟩ := stepTimes_two_commands (i := .settime sec mi ho f) (j := .gettime) rfl rfl hf
    hrst hw ha
  obtain ⟨h0, h1, h2⟩ := settime_values hwf sec mi ho f hu
  refine ⟨t, hrun, hdone, ?_⟩
  rw [hresp, gettime_response, h0, h1, h2, decSec_encSec hs, bcd2bin_bin2bcd hm, decHours_encHours hh]

/-- Settles O36: GETDATE reads the four registers as SETDATE's writes left them, and the BCD round trip holds. -/
theorem setDateThenGetDate : Obligations.SetDateThenGetDate := by
  intro s d w mo y rest port hf hrst hwf hw ha hd hwd hmo hy
  obtain ⟨u, t, hu, hrun, hdone, hresp⟩ := stepTimes_two_commands (i := .setdate d w mo y) (j := .getdate) rfl rfl hf
    hrst hw ha
  obtain ⟨h4, h3, h5, h6⟩ := setdate_values hwf d w mo y hu
  refine ⟨t, hrun, hdone, ?_⟩
  rw [hresp, getdate_response, h3, h4, h5, h6, bcd2bin_bin2bcd hd, bcd2bin_bin2bcd hwd, bcd2bin_bin2bcd hmo,
    bcd2bin_bin2bcd hy]

end Machine

end Sys2Proof
end

section
/-! PROOFS. The statements about the encodings: the command word with its decoder and encoder, the request
wires, the response wires and the response word. Each statement stands after the facts it needs. -/

namespace Sys2Proof

namespace Machine

/-! ### Command words: decoder and encoder -/

/-- Settles O2: the fields of an assembled word are the fields it was assembled from. -/
theorem decodeAfterEncode : Obligations.DecodeAfterEncode := decode_encode

/-- Settles O3: a word with `RSV` zero is the assembly of its fields, and a legal word's unused fields are zero. -/
theorem encodeAfterDecode : Obligations.EncodeAfterDecode := fun _ _ => encode_of_decode

/-- Settles O1: each word is the encoding of its command, and an encoding decodes to its command. -/
theorem sampleWordsDecode : Obligations.SampleWordsDecode :=
  ⟨decode_encode (.bin2bcd 59#8), decode_encode (.bcd2bin 0x59#8), decode_encode (.enchours 10#8 .pm),
    decode_encode (.enchours 12#8 .am), decode_encode (.dechours 0x70#8), decode_encode (.encsec 1#8),
    decode_encode (.decsec 0xD9#8), decode_encode .init, decode_encode (.settime 1#8 25#8 10#8 .pm),
    decode_encode (.setdate 27#8 3#8 12#8 22#8), decode_encode .gettime, decode_encode .getdate⟩

/-! ### The legality check (R75) -/

/-- R73: every format tag but the reserved one names a format. -/
theorem exists_fmtOfTag_iff (t : BitVec 2) : (∃ f, fmtOfTag t = some f) ↔ t ≠ 0b01#2 := by
  rw [← Option.ne_none_iff_exists', ne_eq, fmtOfTag_eq_none_iff]

/-- R73, R75: every format tag but the reserved one is legal. -/
theorem legalTag_iff (t : BitVec 2) : (t = 0b00#2 ∨ t = 0b10#2 ∨ t = 0b11#2) ↔ t ≠ 0b01#2 := by
  revert t
  decide

/-- R72: the eleven assigned opcodes. -/
theorem opcodeAssigned_iff (w : CmdWord) : opcodeAssigned w = true ↔
    opField w = 0x1#4 ∨ opField w = 0x2#4 ∨ opField w = 0x3#4 ∨ opField w = 0x4#4 ∨ opField w = 0x5#4 ∨
      opField w = 0x6#4 ∨ opField w = 0x8#4 ∨ opField w = 0x9#4 ∨ opField w = 0xA#4 ∨ opField w = 0xB#4 ∨
      opField w = 0xC#4 := by
  simp [opcodeAssigned]

/-- R75: a word that decodes has an assigned opcode. -/
theorem opcodeAssigned_of_decode {w : CmdWord} {i : Instr} (h : decode w = .ok i) : opcodeAssigned w = true := by
  rw [← encode_of_decode h]
  cases i <;> simp [encode, opcodeAssigned]

/-- R75: a legal word has an assigned opcode. -/
theorem opcodeAssigned_of_legalWord {w : CmdWord} (h : legalWord w = true) : opcodeAssigned w = true := by
  simp only [legalWord, Bool.and_eq_true] at h
  obtain ⟨⟨⟨hop, _⟩, _⟩, _⟩ := h
  exact hop

section LegalFields

/-! What R75 asks of the other fields of a word, for each form of R74, the operands in the decoder's order. -/

variable {w : CmdWord}

theorem legalWord_byte_iff
    (h : opField w = 0x1#4 ∨ opField w = 0x2#4 ∨ opField w = 0x4#4 ∨ opField w = 0x5#4 ∨ opField w = 0x6#4) :
    legalWord w = true ↔
      rsvField w = 0b00#2 ∧ fmtField w = 0b00#2 ∧ opd3 w = 0x00#8 ∧ opd2 w = 0x00#8 ∧ opd1 w = 0x00#8 := by
  rcases h with h | h | h | h | h <;>
    simp [legalWord, opcodeAssigned, reservedZero, formatLegal, unusedZero, operandUnused, h, and_assoc, and_comm,
      and_left_comm]

theorem legalWord_plain_iff (h : opField w = 0x8#4 ∨ opField w = 0xB#4 ∨ opField w = 0xC#4) :
    legalWord w = true ↔
      rsvField w = 0b00#2 ∧ fmtField w = 0b00#2 ∧ opd3 w = 0x00#8 ∧ opd2 w = 0x00#8 ∧ opd1 w = 0x00#8 ∧
        opd0 w = 0x00#8 := by
  rcases h with h | h | h <;>
    simp [legalWord, opcodeAssigned, reservedZero, formatLegal, unusedZero, operandUnused, h, and_assoc, and_comm,
      and_left_comm]

theorem legalWord_enchours_iff (h : opField w = 0x3#4) :
    legalWord w = true ↔
      rsvField w = 0b00#2 ∧ fmtField w ≠ 0b01#2 ∧ opd3 w = 0x00#8 ∧ opd2 w = 0x00#8 ∧ opd1 w = 0x00#8 := by
  simp [legalWord, opcodeAssigned, reservedZero, formatLegal, unusedZero, operandUnused, h, legalTag_iff,
    and_assoc, and_comm, and_left_comm]

theorem legalWord_settime_iff (h : opField w = 0x9#4) :
    legalWord w = true ↔ rsvField w = 0b00#2 ∧ fmtField w ≠ 0b01#2 ∧ opd3 w = 0x00#8 := by
  simp [legalWord, opcodeAssigned, reservedZero, formatLegal, unusedZero, operandUnused, h, legalTag_iff, and_assoc]

theorem legalWord_setdate_iff (h : opField w = 0xA#4) :
    legalWord w = true ↔ rsvField w = 0b00#2 ∧ fmtField w = 0b00#2 := by
  simp [legalWord, opcodeAssigned, reservedZero, formatLegal, unusedZero, operandUnused, h]

end LegalFields

/-- Settles O4: for each assigned opcode the legality check and the decoder ask the same of the other fields. -/
theorem decoderAcceptsExactlyLegalWords : Obligations.DecoderAcceptsExactlyLegalWords := by
  intro w
  cases hop : opcodeAssigned w with
  | false =>
    refine iff_of_false (fun h => ?_) (fun ⟨i, h⟩ => ?_)
    · simp [opcodeAssigned_of_legalWord h] at hop
    · simp [opcodeAssigned_of_decode h] at hop
  | true =>
    rcases (opcodeAssigned_iff w).1 hop with h | h | h | h | h | h | h | h | h | h | h <;>
      simp [h, legalWord_byte_iff, legalWord_plain_iff, legalWord_enchours_iff, legalWord_settime_iff,
        legalWord_setdate_iff, exists_fmtOfTag_iff, decode_eq_ok_iff, decodeByte_eq_ok_iff, decodePlain_eq_ok_iff,
        decodeEnchours_eq_ok_iff, decodeSettime_eq_ok_iff, decodeSetdate_eq_ok_iff]

/-! ### The opcode table (R72, R74) -/

/-- R70: the fields of a command word stand in it at their weights. -/
theorem toNat_eq_fields (w : CmdWord) : w.toNat =
    2 ^ 36 * (opField w).toNat + 2 ^ 34 * (fmtField w).toNat + 2 ^ 32 * (rsvField w).toNat + 2 ^ 24 * (opd3 w).toNat
      + 2 ^ 16 * (opd2 w).toNat + 2 ^ 8 * (opd1 w).toNat + (opd0 w).toNat := by
  have hw := w.isLt
  simp only [opField, fmtField, rsvField, opd3, opd2, opd1, opd0, BitVec.extractLsb'_toNat, Nat.shiftRight_eq_div_pow]
  omega

/-- R70: two command words are equal exactly when their fields are. -/
theorem eq_iff_fields (w x : CmdWord) : w = x ↔
    opField w = opField x ∧ fmtField w = fmtField x ∧ rsvField w = rsvField x ∧ opd3 w = opd3 x ∧ opd2 w = opd2 x ∧
      opd1 w = opd1 x ∧ opd0 w = opd0 x := by
  refine ⟨by rintro rfl; simp, fun ⟨hop, ht, hrsv, h3, h2, h1, h0⟩ => BitVec.eq_of_toNat_eq ?_⟩
  rw [toNat_eq_fields w, toNat_eq_fields x, hop, ht, hrsv, h3, h2, h1, h0]

/-- R70: a word matches under a mask exactly when each of its fields does. -/
theorem and_eq_iff_fields (w m x : CmdWord) : w &&& m = x ↔
    opField w &&& m.extractLsb' 36 4 = x.extractLsb' 36 4 ∧ fmtField w &&& m.extractLsb' 34 2 = x.extractLsb' 34 2 ∧
      rsvField w &&& m.extractLsb' 32 2 = x.extractLsb' 32 2 ∧ opd3 w &&& m.extractLsb' 24 8 = x.extractLsb' 24 8 ∧
      opd2 w &&& m.extractLsb' 16 8 = x.extractLsb' 16 8 ∧ opd1 w &&& m.extractLsb' 8 8 = x.extractLsb' 8 8 ∧
      opd0 w &&& m.extractLsb' 0 8 = x.extractLsb' 0 8 := by
  rw [eq_iff_fields]
  simp only [opField, fmtField, rsvField, opd3, opd2, opd1, opd0, BitVec.extractLsb'_and]

/-- A mask of ones keeps the whole field. -/
theorem and_of_eq_allOnes {n : Nat} {m : BitVec n} (h : m = BitVec.allOnes n) (x : BitVec n) : x &&& m = x := by
  rw [h, BitVec.and_allOnes]

/-- R72: the command a word decodes to is of a row exactly when the word has the row's opcode. -/
theorem mnemonic_eq_iff_opField {w : CmdWord} {i : Instr} (h : decode w = .ok i) {row : String × CmdWord × CmdWord}
    (hrow : row ∈ opcodeRows) : mnemonic i = row.1 ↔ opField w = row.2.2.extractLsb' 36 4 := by
  rw [← encode_of_decode h]
  cases i <;>
  · simp only [mnemonic, encode, opField_assembleWord]
    revert row
    decide

/-- R72, R75: a word matches a row, with a tag that is not the reserved one, exactly when it has the row's opcode and is
legal. -/
theorem matches_row_iff {w : CmdWord} {row : String × CmdWord × CmdWord} (hrow : row ∈ opcodeRows) :
    w &&& row.2.1 = row.2.2 ∧ fmtField w ≠ 0b01#2 ↔
      opField w = row.2.2.extractLsb' 36 4 ∧ legalWord w = true := by
  have hmask : row.2.1.extractLsb' 36 4 = BitVec.allOnes 4 := by
    revert row
    decide
  rw [and_eq_iff_fields, and_assoc, and_of_eq_allOnes hmask]
  refine and_congr_right fun hop => ?_
  simp only [opcodeRows, List.cons_append, List.nil_append, List.mem_cons, List.not_mem_nil, or_false] at hrow
  rcases hrow with rfl | rfl | rfl | rfl | rfl | rfl | rfl | rfl | rfl | rfl | rfl <;>
    simp +contextual [hop, and_of_eq_allOnes, legalWord_byte_iff, legalWord_plain_iff, legalWord_enchours_iff,
      legalWord_settime_iff, legalWord_setdate_iff, and_assoc, and_comm, and_left_comm]

/-- Settles O5: a matching word has the row's opcode and is legal, and by O4 a legal word decodes. -/
theorem opcodeTableMasksDecode : Obligations.OpcodeTableMasksDecode := by
  intro row hrow w
  refine (matches_row_iff hrow).trans ?_
  rw [decoderAcceptsExactlyLegalWords w]
  constructor
  · rintro ⟨hop, i, hd⟩
    exact ⟨i, hd, (mnemonic_eq_iff_opField hd hrow).2 hop⟩
  · rintro ⟨i, hd, hm⟩
    exact ⟨(mnemonic_eq_iff_opField hd hrow).1 hm, i, hd⟩

/-! ### The wires of the transport ports -/

/-- R102, R106: a request the block presents is in the contract. -/
theorem presentedRequest_inContract {s : State} {q : Request} (h : presentedRequest s = some q) :
    requestInContract q := by
  unfold presentedRequest at h
  split at h
  · obtain ⟨m, hm, rfl⟩ := Option.map_eq_some_iff.1 h
    obtain ⟨i, -, hrow⟩ := exists_decode_of_currentMicro hm
    exact program_inContract (List.mem_of_getElem? hrow)
  · cases h

/-- R79, R47: the bytes a request sends stand on its byte wires. -/
theorem Request.bytes_eq_wires (q : Request) : q.bytes = q.wires.b0.toList ++ q.wires.b1.toList := by
  cases q <;> rfl

theorem Request.wires_kind_ne (q : Request) : q.wires.kind ≠ 0b11#2 := by
  cases q <;> simp [Request.wires]

/-- Settles O44: the contract gives the device and the speed of a request presented, and R79 its wires. -/
theorem requestWireFormat : Obligations.RequestWireFormat := by
  intro s q h
  have hcon := presentedRequest_inContract h
  refine ⟨?_, ?_, ?_, ?_, q.wires_kind_ne, q.bytes_eq_wires⟩
  · rintro d sp rfl
    obtain ⟨rfl, rfl⟩ := hcon
    rfl
  · rintro d a v rfl
    obtain ⟨rfl, -⟩ := hcon
    rfl
  · rintro d a rfl
    obtain ⟨rfl, -⟩ := hcon
    rfl
  · rintro d rfl
    obtain rfl : d = Config.devAddr := hcon
    rfl

/-- R80: the block reads `trsp_data` on an `ok` answer to a READ only, and `trsp_err` on an error only. -/
theorem TResp.result_congr {r r' : TResp} {isRead : Bool} (hok : r'.ok = r.ok)
    (hdata : r.ok = true → isRead = true → r'.data = r.data) (herr : r.ok = false → r'.err = r.err) :
    r'.result isRead = r.result isRead := by
  unfold TResp.result
  rw [hok]
  split
  · next h =>
    split
    · next hr => rw [hdata h hr]
    · rfl
  · next h => rw [herr (by simpa using h)]

/-- R103: of the next answer the wait for a response sees only what the answer comes to. -/
theorem awaitResponse_congr {p : List Micro} {m : Micro} {s : State} {a a' : Answer} {rest : List Answer}
    (h : a.resolve m.request s.chip = a'.resolve m.request s.chip) :
    awaitResponse p m { s with answers := a :: rest } = awaitResponse p m { s with answers := a' :: rest } := by
  simp only [awaitResponse, h]

/-- In WAIT past the end of the micro-program a meaning stops (log 15). -/
theorem exec_of_wait_outside {i : Instr} {s : State} (hf : s.fsm = .wait)
    (hm : (program i)[s.stepIx.toNat]? = none) : exec i s = .fault .stepOutsideProgram := by
  cases hi : sequenced i with
  | true => simp only [exec_sequenced hi, sequencedStep, hf, hm]
  | false => rw [exec_codec hi, codecStep, hf]

/-- R64, R103: of the next answer a command in WAIT sees only what it comes to for the command's request. -/
theorem exec_of_wait_congr {i : Instr} {s : State} {a a' : Answer} {rest : List Answer} (hf : s.fsm = .wait)
    (h : ∀ q, (tableRequests i)[s.stepIx.toNat]? = some q → a.resolve q s.chip = a'.resolve q s.chip) :
    exec i { s with answers := a :: rest } = exec i { s with answers := a' :: rest } := by
  cases hm : (program i)[s.stepIx.toNat]? with
  | none =>
    rw [exec_of_wait_outside (s := { s with answers := a :: rest }) hf hm,
      exec_of_wait_outside (s := { s with answers := a' :: rest }) hf hm]
  | some m =>
    rw [exec_of_wait (s := { s with answers := a :: rest }) hf hm,
      exec_of_wait (s := { s with answers := a' :: rest }) hf hm]
    exact awaitResponse_congr (h _ (by simp [tableRequests_eq_map_program, hm]))

/-- Settles O45: two answers that agree on the wires R80 reads come to the same result. -/
theorem ignoredResponseWires : Obligations.IgnoredResponseWires := by
  intro i s r r' landed rest hf hok hdata herr
  refine exec_of_wait_congr hf fun q hq => ?_
  simp only [Answer.resolve, hok, TResp.result_congr hok (hdata · q hq) herr]

/-! ### The response word (R77) -/

/-- R11: bits `lo` up of a word are its quotient by `2 ^ lo`, cut to their number. -/
theorem extractLsb'_eq_of_toNat {n lo len : Nat} {x : BitVec n} {b : BitVec len}
    (h : x.toNat / 2 ^ lo % 2 ^ len = b.toNat) : x.extractLsb' lo len = b := by
  apply BitVec.eq_of_toNat_eq
  rw [BitVec.extractLsb'_toNat, Nat.shiftRight_eq_div_pow, h]

section ResponseFields

variable (fill : BitVec 36) (r : Response)

/-- R77: the fields of the response word stand in it at their weights. -/
theorem Response.word_toNat : (r.word fill).toNat =
    2 ^ 34 * ((r.status.map statusCode).getD (fill.extractLsb' 34 2)).toNat
      + 2 ^ 32 * ((r.rfmt.map fmtTag).getD (fill.extractLsb' 32 2)).toNat
      + 2 ^ 24 * (r.res3.getD (fill.extractLsb' 24 8)).toNat
      + 2 ^ 16 * (r.res2.getD (fill.extractLsb' 16 8)).toNat
      + 2 ^ 8 * (r.res1.getD (fill.extractLsb' 8 8)).toNat
      + (r.res0.getD (fill.extractLsb' 0 8)).toNat := by
  rw [Response.word, BitVec.toNat_ofNat]
  omega

theorem Response.word_status :
    (r.word fill).extractLsb' 34 2 = (r.status.map statusCode).getD (fill.extractLsb' 34 2) :=
  extractLsb'_eq_of_toNat (by rw [Response.word_toNat]; omega)

theorem Response.word_rfmt :
    (r.word fill).extractLsb' 32 2 = (r.rfmt.map fmtTag).getD (fill.extractLsb' 32 2) :=
  extractLsb'_eq_of_toNat (by rw [Response.word_toNat]; omega)

theorem Response.word_res3 :
    (r.word fill).extractLsb' 24 8 = r.res3.getD (fill.extractLsb' 24 8) :=
  extractLsb'_eq_of_toNat (by rw [Response.word_toNat]; omega)

theorem Response.word_res2 :
    (r.word fill).extractLsb' 16 8 = r.res2.getD (fill.extractLsb' 16 8) :=
  extractLsb'_eq_of_toNat (by rw [Response.word_toNat]; omega)

theorem Response.word_res1 :
    (r.word fill).extractLsb' 8 8 = r.res1.getD (fill.extractLsb' 8 8) :=
  extractLsb'_eq_of_toNat (by rw [Response.word_toNat]; omega)

theorem Response.word_res0 :
    (r.word fill).extractLsb' 0 8 = r.res0.getD (fill.extractLsb' 0 8) :=
  extractLsb'_eq_of_toNat (by rw [Response.word_toNat]; omega)

end ResponseFields

/-- Settles O48: each field of the word is the field's code, or the hardware's bits where the field is ⊥. -/
theorem responseWordFields : Obligations.ResponseWordFields := by
  intro fill r
  rw [Response.word_status, Response.word_rfmt, Response.word_res3, Response.word_res2, Response.word_res1,
    Response.word_res0]
  simp +contextual [statusCode, fmtTag]

/-! ### The format tags (R73) -/

/-- R73, R88: for the 12-hour formats bits 6 and 5 of the hours byte are the tag, whatever the hour. -/
theorem encHours_modeBits (h : Byte) {f : Fmt} (hf : f ≠ .h24) : (encHours h f).extractLsb' 5 2 = fmtTag f := by
  cases f with
  | h24 => exact absurd rfl hf
  | am | pm =>
    unfold encHours
    generalize bin2bcd h = b
    revert b
    decide

theorem fmtTag_ne_reserved (f : Fmt) : fmtTag f ≠ 0b01#2 := by cases f <;> decide

/-- Settles O6: the tags are R73's literals, and the hours byte carries the tag. -/
theorem formatTagsAreHoursBits : Obligations.FormatTagsAreHoursBits :=
  ⟨rfl, rfl, rfl, rfl, fmtTag_ne_reserved, fmtOfTag_fmtTag, fun h _ => encHours_modeBits h⟩

/-! ### A step is the meaning of a command (R69) -/

/-- R100: in IDLE the handshake is the acceptance of a legal word by its meaning. -/
theorem handshake_of_accept {s : State} {w : CmdWord} {port : List CmdWord} {i : Instr} (hf : s.fsm = .idle)
    (hw : s.cmds = w :: port) (hd : decode w = .ok i) : handshake s = exec i { s with cmds := port } := by
  simp only [handshake_of_idle hf, acceptNext, hw, hd]

/-- Settles O22: with the reset input low a step is a handshake, of the word taken or of the command held. -/
theorem stepRunsDecodedCommand : Obligations.StepRunsDecodedCommand := by
  refine ⟨fun s w port i hf hrst hw hd => ?_, fun s i hrun hrst hd => ?_⟩
  · rw [step_of_rst_low hrst, handshake_of_accept (s := { s with rst := s.rst.tail }) hf hw hd]
  · rw [step_of_rst_low hrst, handshake_of_running (s := { s with rst := s.rst.tail }) hrun hd]

end Machine

end Sys2Proof
end

section
/-! PROOFS. The statements about the codec: the round trips of its functions, and what each of the six codec commands
answers. The functions are tied to the statements' own numbers (R85 to R92) before the commands that use them. -/

namespace Sys2Proof

namespace Machine

/-! ### The BCD functions undo each other (R87) -/

/-- R86: a valid byte's value as a number; it stays below 100, so nothing wraps. -/
theorem bcd2bin_toNat_of_valid {b : Byte} (h : bcdValid b = true) :
    (bcd2bin b).toNat = 10 * (b.toNat / 16) + b.toNat % 16 := by
  have hdigits := (bcdValid_iff b).1 h
  rw [bcd2bin_of_valid h, BitVec.toNat_ofNat]
  omega

theorem bcd2bin_lt_of_valid {b : Byte} (h : bcdValid b = true) : (bcd2bin b).toNat < 100 := by
  have hdigits := (bcdValid_iff b).1 h
  rw [bcd2bin_toNat_of_valid h]
  omega

/-- R85: below 100 the packed BCD byte as a number. -/
theorem bin2bcd_toNat_of_lt {v : Byte} (h : v.toNat < 100) : (bin2bcd v).toNat = v.toNat / 10 * 16 + v.toNat % 10 := by
  rw [bin2bcd_of_lt h, BitVec.toNat_ofNat]
  omega

/-- R87: on the valid bytes the two BCD functions undo each other. -/
theorem bin2bcd_bcd2bin {b : Byte} (h : bcdValid b = true) : bin2bcd (bcd2bin b) = b := by
  have hdigits := (bcdValid_iff b).1 h
  apply BitVec.eq_of_toNat_eq
  rw [bin2bcd_toNat_of_lt (bcd2bin_lt_of_valid h), bcd2bin_toNat_of_valid h]
  omega

/-- R87: below 100 the packed BCD byte is valid. -/
theorem bcdValid_bin2bcd {v : Byte} (h : v.toNat < 100) : bcdValid (bin2bcd v) = true := by
  rw [bcdValid_iff, bin2bcd_toNat_of_lt h]
  omega

/-- Settles O7: both directions of the BCD round trip, each with the range it lands in. -/
theorem bcdRoundTrip : Obligations.BcdRoundTrip :=
  ⟨fun _ => bcd2bin_bin2bcd, fun _ h => ⟨bin2bcd_bcd2bin h, bcd2bin_lt_of_valid h⟩, fun _ => bcdValid_bin2bcd⟩

/-! ### The hours round trip (R90) -/

/-- R90: below 80 the bits the format takes from the tens digit are lost: bit 6 alone in 24-hour mode, bits 6 and 5 in
12-hour mode. -/
theorem decHours_encHours_of_lt {h : Byte} (f : Fmt) (hh : h.toNat < 80) :
    decHours (encHours h f) = (h % if f = .h24 then 40#8 else 20#8, f) := by
  revert h
  cases f <;> decide

/-- R90: the hours round trip holds exactly where no bit of the tens digit is lost. -/
theorem decHours_encHours_iff {h : Byte} (f : Fmt) (hh : h.toNat < 100) :
    decHours (encHours h f) = (h, f) ↔ h.toNat < (if f = .h24 then 40 else 20) ∨ 80 ≤ h.toNat := by
  by_cases h80 : 80 ≤ h.toNat
  · simp [h80, decHours_encHours (.inr (.inl ⟨h80, hh⟩))]
  · rw [decHours_encHours_of_lt f (by omega), Prod.mk.injEq, ← BitVec.toNat_inj, BitVec.toNat_umod]
    cases f <;> simp <;> omega

/-- Settles O8: the exact sets of R90, one for each format. -/
theorem hoursRoundTripSets : Obligations.HoursRoundTripSets := fun _ hh =>
  ⟨decHours_encHours_iff .h24 hh, decHours_encHours_iff .am hh, decHours_encHours_iff .pm hh⟩

/-! ### The seconds round trip (R93) -/

/-- R93: from 80 to 99 the clearing of bit 7 takes 80 from the tens digit. -/
theorem decSec_encSec_of_ge {s : Byte} (h80 : 80 ≤ s.toNat) (h100 : s.toNat < 100) : decSec (encSec s) = s - 80#8 := by
  revert s
  decide

/-- Settles O9: the round trip below 80, what it gives from 80 on, and the clock-halt bit. -/
theorem secondsRoundTrip : Obligations.SecondsRoundTrip :=
  ⟨fun _ => decSec_encSec, fun _ => decSec_encSec_of_ge, clockHalt_encSec⟩

/-! ### The statements' own numbers are the codec functions (R86, R89, R92) -/

theorem bcd2bin_eq_digitsValue (b : Byte) : bcd2bin b = digitsValue b := by
  unfold digitsValue
  split
  · next h => exact bcd2bin_of_valid ((bcdValid_iff b).2 h)
  · next h => exact bcd2bin_of_invalid (Bool.eq_false_iff.2 fun hv => h ((bcdValid_iff b).1 hv))

theorem decSec_eq_secondsValue (b : Byte) : decSec b = secondsValue b := by
  have hmask : b &&& 0x7F#8 = BitVec.ofNat 8 (b.toNat % 128) := by revert b; decide
  rw [decSec, secondsValue, hmask, bcd2bin_eq_digitsValue]

/-- R28: the 12/24-hour mode bit as a number. -/
theorem mode12_eq_false_iff (b : Byte) : mode12 b = false ↔ b.toNat / 64 % 2 = 0 := by
  revert b
  decide

/-- R29: bit 5 of the hours byte as a number. -/
theorem pmOrTwenty_iff (b : Byte) : pmOrTwenty b = true ↔ b.toNat / 32 % 2 = 1 := by
  revert b
  decide

/-- R89: in 24-hour mode bit 6 is 0 already, so clearing it changes nothing. -/
theorem clearMode_of_h24 {b : Byte} (h : mode12 b = false) : b &&& 0xBF#8 = b := by
  revert b
  decide

/-- R89: clearing bits 6 and 5, in numbers. -/
theorem clearModeAndPm (b : Byte) : b &&& 0x9F#8 = BitVec.ofNat 8 (b.toNat / 128 * 128 + b.toNat % 32) := by
  revert b
  decide

theorem decHours_eq_hoursValue (b : Byte) : decHours b = hoursValue b := by
  unfold decHours hoursValue
  cases hmode : mode12 b with
  | false => simp [(mode12_eq_false_iff b).1 hmode, clearMode_of_h24 hmode, bcd2bin_eq_digitsValue]
  | true =>
    have h64 : ¬ b.toNat / 64 % 2 = 0 := by simp [← mode12_eq_false_iff, hmode]
    cases hpm : pmOrTwenty b <;> simp [h64, hpm, clearModeAndPm, bcd2bin_eq_digitsValue, ← pmOrTwenty_iff]

/-! ### The codec commands (R94 to R99) -/

/-- R70: the operand byte `OPD0` fills the low 8 bits of a word that is zero there. -/
theorem assembleWord_opd0 (op : BitVec 4) (t : BitVec 2) (v : Byte) :
    assembleWord op t 0x00#8 0x00#8 0x00#8 v =
      assembleWord op t 0x00#8 0x00#8 0x00#8 0x00#8 ||| v.setWidth 40 := by
  have hv := v.isLt
  have hsplit := Nat.two_pow_add_eq_or_of_lt hv (2 ^ 28 * op.toNat + 2 ^ 26 * t.toNat)
  apply BitVec.eq_of_toNat_eq
  simp only [BitVec.toNat_or, BitVec.toNat_setWidth, assembleWord_toNat, BitVec.toNat_ofNat]
  rw [Nat.mod_eq_of_lt (by omega : v.toNat < 2 ^ 40)]
  convert hsplit using 2 <;> omega

/-- R101: a codec command is whole in its acceptance step: it writes its result and ends with STATUS OK. -/
theorem exec_codec_of_idle {i : Instr} {s : State} (hi : sequenced i = false) (hf : s.fsm = .idle) :
    exec i s = .next (endedOk (codecWrite i (accepted (encode i) s))) := by
  simp only [exec_codec hi, codecStep, hf]
  rfl

/-- Settles O10: the acceptance step writes `bin2bcd v`, the statement's own number. -/
theorem bin2bcdResult : Obligations.Bin2bcdResult := by
  intro v s hf
  rw [exec_codec_of_idle rfl hf, ← bin2bcd_eq_digitsByte]
  exact ⟨assembleWord_opd0 0x1#4 0b00#2 v, rfl⟩

/-- Settles O11: the acceptance step writes `bcd2bin b`, the statement's own number. -/
theorem bcd2binResult : Obligations.Bcd2binResult := by
  intro b s hf
  rw [exec_codec_of_idle rfl hf, ← bcd2bin_eq_digitsValue]
  exact ⟨assembleWord_opd0 0x2#4 0b00#2 b, rfl⟩

/-- Settles O12: the acceptance step writes `encHours h f`, the statement's byte bit by bit; the word carries the tag. -/
theorem enchoursResult : Obligations.EnchoursResult := by
  intro h f s hf
  rw [exec_codec_of_idle rfl hf, ← encHours_eq_hoursByte]
  refine ⟨?_, rfl⟩
  cases f <;> exact assembleWord_opd0 0x3#4 _ h

/-- Settles O13: the acceptance step writes both parts of `decHours b`, the statement's own numbers. -/
theorem dechoursResult : Obligations.DechoursResult := by
  intro b s hf
  rw [exec_codec_of_idle rfl hf, ← decHours_eq_hoursValue]
  exact ⟨assembleWord_opd0 0x4#4 0b00#2 b, rfl⟩

/-- Settles O14: the acceptance step writes `encSec v`, the statement's own number, whose bit 7 is 0. -/
theorem encsecResult : Obligations.EncsecResult := by
  intro v s hf
  rw [exec_codec_of_idle rfl hf, ← encSec_eq_secondsByte]
  exact ⟨assembleWord_opd0 0x5#4 0b00#2 v, clockHalt_encSec v, rfl⟩

/-- Settles O15: the acceptance step writes `decSec b`, the statement's own number. -/
theorem decsecResult : Obligations.DecsecResult := by
  intro b s hf
  rw [exec_codec_of_idle rfl hf, ← decSec_eq_secondsValue]
  exact ⟨assembleWord_opd0 0x6#4 0b00#2 b, rfl⟩

end Machine

end Sys2Proof
end

section
/-! PROOFS. The statements about register access: the moves of one handshake with what each leaves unchanged, and the
five sequenced commands as whole runs. One induction over the rows of a micro-program says where a command stands after
rows answered `ok`; the runs, the aborts and the counts are uses of it. -/

namespace Sys2Proof

namespace Machine

/-! ### The statements' own table is the micro-programs' (R106) -/

theorem tableRequests_length (i : Instr) : (tableRequests i).length = (program i).length := by
  rw [tableRequests_eq_map_program, List.length_map]

/-- R106: a request of the table is the request of a row. -/
theorem exists_row_of_tableRequest {i : Instr} {k : Nat} {q : Request} (h : (tableRequests i)[k]? = some q) :
    ∃ m, (program i)[k]? = some m ∧ m.request = q := by
  rwa [tableRequests_eq_map_program, List.getElem?_map, Option.map_eq_some_iff] at h

/-- R30: the halt flag in numbers. -/
theorem haltFlag_eq_div (b : Byte) : haltFlag b = BitVec.ofNat 8 (b.toNat / 128) := by
  revert b
  decide

/-- R106, column "on ok": what the block does with the byte at a row is what the table says. -/
theorem Micro.deliver_eq_tableOnOk {i : Instr} {k : Nat} {m : Micro} (hm : (program i)[k]? = some m) (b : Byte)
    (s : State) : m.deliver (if m.request.isRead then some b else none) s = tableOnOk i k b s := by
  obtain ⟨hk, rfl⟩ := List.getElem?_eq_some_iff.1 hm
  cases i with
  | bin2bcd | bcd2bin | enchours | dechours | encsec | decsec => exact absurd hk (Nat.not_lt_zero k)
  | init | settime | setdate | gettime | getdate =>
    simp only [program, initProgram, settimeProgram, setdateProgram, gettimeProgram, getdateProgram, memRead,
      List.cons_append, List.nil_append, List.length_cons, List.length_nil] at hk ⊢
    interval_cases k <;>
      simp [Micro.request, Request.isRead, Micro.deliver, Act.run, tableOnOk, haltFlag_eq_div, bcd2bin_eq_digitsValue,
        decSec_eq_secondsValue, decHours_eq_hoursValue]

/-! ### The moves of one handshake -/

/-- Settles O16: acceptance in IDLE latches the word and presents the first request. -/
theorem sequencedCommandAccepted : Obligations.SequencedCommandAccepted := fun _ _ hi hf => exec_of_idle hi hf

/-- Settles O17: in ISSUE the row of CMD and STEP is presented, and its request is taken. -/
theorem tableRequestIssued : Obligations.TableRequestIssued := by
  intro i s q hd hf hq
  obtain ⟨m, hm, rfl⟩ := exists_row_of_tableRequest hq
  refine ⟨?_, exec_of_issue hf hm⟩
  simp [presentedRequest, treqValid, hf, currentRequest, currentMicro_of_decode hd, hm]

/-- R64: an `ok` of the oracle brings the byte of a READ, and the request has reached the chip. -/
theorem Answer.resolve_oracle_ok {r : TResp} (h : r.ok = true) (landed : Bool) (q : Request) (c : Chip) :
    (Answer.oracle r landed).resolve q c = some (.ok (if q.isRead then some r.data else none), c.apply q) := by
  simp [Answer.resolve, TResp.result, h]

/-- Settles O18: the row's byte goes where the table says, and the last row ends the command. -/
theorem okResponseAdvances : Obligations.OkResponseAdvances := by
  intro i s q r landed rest hf hq ha hok
  obtain ⟨m, hm, rfl⟩ := exists_row_of_tableRequest hq
  rw [exec_of_wait hf hm, awaitResponse_of_ok ha (Answer.resolve_oracle_ok hok ..), State.succeed,
    tableRequests_length, ← Micro.deliver_eq_tableOnOk hm]
  split
  · rfl
  · simp [State.advance]

/-- Settles O23: with an empty command port in IDLE, and with no answer in WAIT, the state is answered as it is. -/
theorem blockHoldsWithoutEvent : Obligations.BlockHoldsWithoutEvent := by
  refine ⟨fun s hf hrst hc => ?_, fun s q hf hrst ha hq => ?_⟩
  · rw [step_of_rst_nil hrst, handshake_of_idle hf, acceptNext, hc]
  · obtain ⟨m, hm, -⟩ := Option.map_eq_some_iff.1 hq
    obtain ⟨i, hd, hrow⟩ := exists_decode_of_currentMicro hm
    rw [step_of_rst_nil hrst, handshake_of_running (.inr hf) hd, exec_of_wait hf hrow, awaitResponse_of_nil ha]

/-! ### The response (R104) -/

@[simp] theorem codecWrite_delivered (i : Instr) (s : State) : (codecWrite i s).delivered = s.delivered := by
  cases i <;> rfl

/-- R104: outside DONE no handshake hands out a response. -/
theorem Move.delivered_of_not_done {s t : State} (h : Move s t) (hf : s.fsm ≠ .done) : t.delivered = s.delivered := by
  cases h with
  | respond hf' => exact absurd hf' hf
  | hold | refuse | codec | accept | take | fail | last | next => simp

/-- Settles O20: the response is presented and handed out in DONE alone; a reset hands out none. -/
theorem responseTakenOnce : Obligations.ResponseTakenOnce := by
  refine ⟨fun s hf => ?_, fun s hf => ?_, fun s hrst hf => ?_, fun s t hno h => ?_⟩
  · simp [presentedResponse, rspValid, hf, State.response]
  · simp [presentedResponse, rspValid, hf]
  · refine ⟨s.response, by simp [presentedResponse, rspValid, hf], ?_⟩
    rw [step_of_rst_low hrst, handshake_of_done (s := { s with rst := s.rst.tail }) hf]
    rfl
  · rcases step_cases h with ⟨_, _, -, rfl⟩ | ⟨hrst, h⟩
    · rfl
    · exact (move_of_handshake h).delivered_of_not_done (hno.resolve_left (by simp [hrst]))

/-! ### The transition table (R105) -/

/-- R75, R76: the words that fail the legality check are those the decoder rejects. -/
theorem legalWord_eq_false_iff (w : CmdWord) : legalWord w = false ↔ ∃ x, decode w = .error x := by
  rw [Bool.eq_false_iff, ne_eq, decoderAcceptsExactlyLegalWords]
  cases decode w <;> simp

/-- R103: an `ok` ends the command at its last row only. -/
theorem State.last_row_of_succeed_done {p : List Micro} {m : Micro} {data : Option Byte} {s : State}
    (h : (s.succeed p m data).fsm = .done) : s.stepIx.toNat + 1 = p.length := by
  by_contra hk
  simp [State.succeed, hk] at h

/-- R103: in WAIT an `ok` to the row's request goes on as the row says. -/
theorem handshake_of_ok {i : Instr} {s : State} {m : Micro} {a : Answer} {rest : List Answer} {data : Option Byte}
    {c : Chip} (hf : s.fsm = .wait) (hd : decode s.cmd = .ok i) (hm : (program i)[s.stepIx.toNat]? = some m)
    (ha : s.answers = a :: rest) (hr : a.resolve m.request s.chip = some (.ok data, c)) :
    handshake s = .next (State.succeed (program i) m data { s with answers := rest, chip := c }) := by
  rw [handshake_of_running (.inr hf) hd, exec_of_wait hf hm, awaitResponse_of_ok ha hr]

/-- R105: a handshake is a hold or a row of the transition table, with the row's condition. -/
theorem handshake_transition {s t : State} (h : handshake s = .next t) :
    (t = s ∧ ((s.fsm = .idle ∧ s.cmds = []) ∨ (s.fsm = .wait ∧ s.answers = []))) ∨
    (s.fsm = .idle ∧ t.fsm = .done ∧ ∃ w rest, s.cmds = w :: rest ∧
      (legalWord w = false ∨ ∃ i, decode w = .ok i ∧ sequenced i = false)) ∨
    (s.fsm = .idle ∧ t.fsm = .issue ∧ ∃ w rest i, s.cmds = w :: rest ∧ decode w = .ok i ∧ sequenced i = true) ∨
    (s.fsm = .issue ∧ t.fsm = .wait) ∨
    (s.fsm = .wait ∧ t.fsm = .done ∧ t.status = some .transportError ∧ t.err.isSome = true) ∨
    (s.fsm = .wait ∧ t.fsm = .done ∧ t.status = some .ok ∧
      ∃ i, decode s.cmd = .ok i ∧ s.stepIx.toNat + 1 = (tableRequests i).length) ∨
    (s.fsm = .wait ∧ t.fsm = .issue ∧
      ∃ i, decode s.cmd = .ok i ∧ s.stepIx.toNat + 1 < (tableRequests i).length) ∨
    (s.fsm = .done ∧ t.fsm = .idle) := by
  simp only [tableRequests_length]
  cases move_of_handshake h with
  | hold hno => exact .inl ⟨rfl, hno⟩
  | refuse hf hw hd => exact .inr (.inl ⟨hf, rfl, _, _, hw, .inl ((legalWord_eq_false_iff _).2 ⟨_, hd⟩)⟩)
  | codec hf hw hd hi => exact .inr (.inl ⟨hf, rfl, _, _, hw, .inr ⟨_, hd, hi⟩⟩)
  | accept hf hw hd hi => exact .inr (.inr (.inl ⟨hf, rfl, _, _, _, hw, hd, hi⟩))
  | take hf => exact .inr (.inr (.inr (.inl ⟨hf, rfl⟩)))
  | fail hf => exact .inr (.inr (.inr (.inr (.inl ⟨hf, rfl, rfl, rfl⟩))))
  | last hf hd hm ha hr =>
    have hsucceed := (handshake_of_ok hf hd hm ha hr).symm.trans h
    have hlast := State.last_row_of_succeed_done (congrArg State.fsm (Host.Outcome.next.inj hsucceed))
    exact .inr (.inr (.inr (.inr (.inr (.inl ⟨hf, rfl, rfl, _, hd, hlast⟩)))))
  | next hf hd _ _ _ hk => exact .inr (.inr (.inr (.inr (.inr (.inr (.inl ⟨hf, rfl, _, hd, hk⟩))))))
  | respond hf => exact .inr (.inr (.inr (.inr (.inr (.inr (.inr ⟨hf, rfl⟩))))))

/-- Settles O24: a reset leads to IDLE, and any other step is a handshake of the transition table. -/
theorem transitionRelation : Obligations.TransitionRelation := by
  intro s t h
  rcases step_cases h with ⟨landed, rest, hr, rfl⟩ | ⟨hrst, h⟩
  · exact ⟨fun _ => rfl, fun hlow => by simp [rstHigh, hr] at hlow⟩
  · exact ⟨fun hhigh => by simp [hrst] at hhigh, fun _ => handshake_transition h⟩

/-! ### The frame of a codec command (R101) -/

/-- Settles O37: acceptance has cleared every result, and the command writes RES0, and DECHOURS RFMT too. -/
theorem codecFrame : Obligations.CodecFrame := by
  intro i s t hi hf h
  rw [exec_codec_of_idle hi hf] at h
  cases h
  cases i with
  | init | settime | setdate | gettime | getdate => cases hi
  | bin2bcd | bcd2bin | enchours | encsec | decsec =>
    exact ⟨rfl, fun _ => rfl, rfl, rfl, rfl, rfl, rfl, rfl, rfl, rfl, rfl, rfl, fun _ => rfl⟩
  | dechours b =>
    exact ⟨rfl, fun _ => rfl, rfl, rfl, rfl, rfl, rfl, rfl, rfl, rfl, rfl, rfl, fun hne => absurd rfl (hne b)⟩

/-! ### Runs of one command's handshakes -/

theorem execTimes_succ {i : Instr} {s t : State} (n : Nat) (h : exec i s = .next t) :
    execTimes i (n + 1) s = execTimes i n t := by
  rw [execTimes, h]

/-- R102, R103: what a row taken and answered `ok` does to the state but for FSM and STEP. -/
def Micro.okRow (m : Micro) (data : Option Byte) (rest : List Answer) (s : State) : State :=
  m.deliver data { s with answers := rest, chip := s.chip.apply m.request, issued := s.issued ++ [m.request] }

/-- R102, R103: `OkRows rows s t`: from `s` the rows are taken and answered `ok` one after the other, which leaves `t`
but for FSM and STEP. -/
inductive OkRows : List Micro → State → State → Prop
  | nil (s : State) : OkRows [] s s
  | cons {m : Micro} {rows : List Micro} {s t : State} {a : Answer} {rest : List Answer} {data : Option Byte}
      (ha : s.answers = a :: rest) (hr : a.resolve m.request s.chip = some (.ok data, s.chip.apply m.request))
      (h : OkRows rows (m.okRow data rest s) t) : OkRows (m :: rows) s t

/-- A first row answered `ok` by the oracle. -/
theorem OkRows.oracle {m : Micro} {rows : List Micro} {s t : State} {r : TResp} {landed : Bool} {rest : List Answer}
    (ha : s.answers = .oracle r landed :: rest) (hok : r.ok = true)
    (h : OkRows rows (m.okRow (if m.request.isRead then some r.data else none) rest s) t) : OkRows (m :: rows) s t :=
  .cons ha (Answer.resolve_oracle_ok hok ..) h

/-- The reference chip answers every row `ok`, where a pointer write comes before each READ. -/
theorem OkRows.refChip {rows : List Micro} {s : State} {rest : List Answer}
    (hchain : rows.IsChain fun m m' => m'.request.isRead = true → ∃ a, m = .pointer a)
    (hptr : ∀ m, rows.head? = some m → m.request.isRead = true → s.chip.ptr.isSome = true)
    (ha : s.answers = List.replicate rows.length .refChip ++ rest) : OkRows rows s (refRows rows s) := by
  induction rows generalizing s with
  | nil => exact .nil s
  | cons m rows ih =>
    rw [List.length_cons, List.replicate_succ, List.cons_append] at ha
    have hrow : m.refRow s = m.okRow (m.refByte s.chip) (List.replicate rows.length .refChip ++ rest) s := by
      rw [Micro.refRow, ha]
      rfl
    rw [refRows_cons, hrow]
    refine .cons ha (Micro.resolve_refChip (hptr m rfl)) ?_
    refine ih hchain.tail (fun m' hm' hread => ?_) (by simp [Micro.okRow])
    obtain ⟨p, rfl⟩ := List.isChain_cons.1 hchain |>.1 m' hm' hread
    simp [Micro.okRow, Micro.request, Chip.apply]

/-- Answers of the oracle that are all `ok`, one for each row, answer the rows. -/
theorem OkRows.exists_of_allOk {rows : List Micro} {s : State} {as rest : List Answer} (hok : allOk as)
    (ha : s.answers = as ++ rest) (hlen : as.length = rows.length) : ∃ t, OkRows rows s t ∧ t.answers = rest := by
  induction rows generalizing s as with
  | nil => exact ⟨s, .nil s, by rw [ha, List.length_eq_zero_iff.1 hlen, List.nil_append]⟩
  | cons m rows ih =>
    obtain ⟨a, as, rfl⟩ := List.exists_cons_of_length_eq_add_one hlen
    obtain ⟨⟨r, landed, rfl, hr⟩, hoks⟩ := List.forall_mem_cons.1 hok
    obtain ⟨t, ht, hrest⟩ := ih (s := m.okRow (if m.request.isRead then some r.data else none) (as ++ rest) s) hoks
      (by simp [Micro.okRow]) (by simpa using hlen)
    exact ⟨t, .oracle ha hr ht, hrest⟩

/-- R102: the requests of the rows are recorded in order (log 11). -/
theorem OkRows.issued {rows : List Micro} {s t : State} (h : OkRows rows s t) :
    t.issued = s.issued ++ rows.map Micro.request := by
  induction h with
  | nil => simp
  | cons _ _ _ ih => simp [ih, Micro.okRow]

/-- The state after the rows with its record of requests written out as one list. -/
theorem OkRows.with_issued {rows : List Micro} {s t : State} (h : OkRows rows s t) :
    OkRows rows s { t with issued := s.issued ++ rows.map Micro.request } :=
  h.issued ▸ h

/-- R66: the rows apply their requests to the chip, in order. -/
theorem OkRows.chip {rows : List Micro} {s t : State} (h : OkRows rows s t) :
    t.chip = (rows.map Micro.request).foldl Chip.apply s.chip := by
  induction h with
  | nil => rfl
  | cons _ _ _ ih => simp [ih, Micro.okRow]

theorem OkRows.err {rows : List Micro} {s t : State} (h : OkRows rows s t) : t.err = s.err := by
  induction h with
  | nil => rfl
  | cons _ _ _ ih => simp [ih, Micro.okRow]

/-- R103: where the sequencer stands after the first `k` rows of a command: at row `k`, or in DONE after the last. -/
def State.afterRows (i : Instr) (k : Nat) (s : State) : State :=
  if k = (program i).length then (s.place .wait (BitVec.ofNat 3 (k - 1))).finish .ok
  else s.place .issue (BitVec.ofNat 3 k)

/-- R20: STEP has a value for every row. -/
theorem stepIx_toNat_of_row {i : Instr} {k : Nat} {m : Micro} (hm : (program i)[k]? = some m) :
    (BitVec.ofNat 3 k).toNat = k := by
  have hk := (List.getElem?_eq_some_iff.1 hm).1
  have hlen := program_length_le i
  exact Nat.mod_eq_of_lt (by omega)

/-- R102, R103: at a row of the micro-program the request is taken and its response awaited, two handshakes. -/
theorem execTimes_row {i : Instr} {k : Nat} {m : Micro} (hm : (program i)[k]? = some m) {s t : State}
    (h : awaitResponse (program i) m ((s.place .wait (BitVec.ofNat 3 k)).takeRequest m.request) = .next t) (n : Nat) :
    execTimes i (n + 2) (s.place .issue (BitVec.ofNat 3 k)) = execTimes i n t := by
  have hrow : (program i)[(BitVec.ofNat 3 k).toNat]? = some m := by rwa [stepIx_toNat_of_row hm]
  have htake : exec i (s.place .issue (BitVec.ofNat 3 k)) =
      .next ((s.place .wait (BitVec.ofNat 3 k)).takeRequest m.request) := exec_of_issue rfl hrow
  have hwait : exec i ((s.place .wait (BitVec.ofNat 3 k)).takeRequest m.request) = .next t :=
    (exec_of_wait rfl hrow).trans h
  rw [execTimes_succ _ htake, execTimes_succ _ hwait]

/-- R103: an `ok` at row `k` puts the sequencer after the first `k + 1` rows. -/
theorem State.succeed_eq_afterRows {i : Instr} {k : Nat} {m : Micro} (hm : (program i)[k]? = some m)
    (data : Option Byte) (rest : List Answer) (s : State) :
    State.succeed (program i) m data { (s.place .wait (BitVec.ofNat 3 k)).takeRequest m.request with
      answers := rest, chip := s.chip.apply m.request } = (m.okRow data rest s).afterRows i (k + 1) := by
  have hdeliver : m.deliver data { (s.place .wait (BitVec.ofNat 3 k)).takeRequest m.request with
      answers := rest, chip := s.chip.apply m.request } = (m.okRow data rest s).place .wait (BitVec.ofNat 3 k) :=
    m.deliver_place data .wait (BitVec.ofNat 3 k)
      { s with answers := rest, chip := s.chip.apply m.request, issued := s.issued ++ [m.request] }
  rw [State.succeed, hdeliver, State.afterRows]
  simp only [State.takeRequest_stepIx, State.place_stepIx, stepIx_toNat_of_row hm, Nat.add_sub_cancel]
  split
  · rfl
  · simp [State.advance, State.place, BitVec.ofNat_add]

/-- R103, R106: rows answered `ok` are two handshakes each. -/
theorem execTimes_okRows {i : Instr} {rows : List Micro} {s t : State} (h : OkRows rows s t) {k : Nat}
    (hk : k < (program i).length) (hrows : rows <+: (program i).drop k) (n : Nat) :
    execTimes i (2 * rows.length + n) (s.place .issue (BitVec.ofNat 3 k)) =
      execTimes i n (t.afterRows i (k + rows.length)) := by
  induction h generalizing k with
  | nil s => rw [List.length_nil, Nat.mul_zero, Nat.zero_add, Nat.add_zero, State.afterRows, if_neg hk.ne]
  | @cons m rows s t a rest data ha hr h ih =>
    rw [List.drop_eq_getElem_cons hk, List.cons_prefix_cons] at hrows
    obtain ⟨rfl, hrows⟩ := hrows
    have hm := List.getElem?_eq_getElem hk
    rw [List.length_cons, Nat.mul_succ, Nat.add_right_comm, execTimes_row hm (awaitResponse_of_ok ha hr),
      State.succeed_eq_afterRows hm]
    cases rows with
    | nil => cases h; rw [List.length_nil, Nat.mul_zero, Nat.zero_add]
    | cons m' rows =>
      have hk' : k + 1 < (program i).length := by
        have := hrows.length_le
        rw [List.length_cons, List.length_drop] at this
        omega
      rw [State.afterRows, if_neg hk'.ne, ih hk' hrows, Nat.add_assoc, Nat.add_comm 1, List.length_cons]

/-! ### Whole commands -/

/-- R100 to R103: a sequenced command accepted in IDLE, its first rows answered `ok`. -/
theorem execTimes_accept_okRows {i : Instr} {rows : List Micro} {s t : State} (hi : sequenced i = true)
    (hf : s.fsm = .idle) (h : OkRows rows (s.latch (encode i)) t) (hrows : rows <+: program i) (n : Nat) :
    execTimes i (2 * rows.length + n + 1) s = execTimes i n (t.afterRows i rows.length) := by
  obtain ⟨m, hm, -⟩ := program_first hi
  rw [execTimes_succ _ (exec_of_idle hi hf)]
  exact (execTimes_okRows h (List.getElem?_eq_some_iff.1 hm).1 hrows n).trans (by rw [Nat.zero_add])

/-- R103, R106: a sequenced command whose rows are all answered `ok` ends with STATUS OK, at its last row. -/
theorem execTimes_command {i : Instr} {s t : State} (hi : sequenced i = true) (hf : s.fsm = .idle)
    (h : OkRows (program i) (s.latch (encode i)) t) :
    execTimes i (2 * (program i).length + 1) s =
      .next ((t.place .wait (BitVec.ofNat 3 ((program i).length - 1))).finish .ok) := by
  refine (execTimes_accept_okRows hi hf h List.prefix_rfl 0).trans ?_
  rw [State.afterRows, if_pos rfl, execTimes]

/-- R123, R124: every command aborts at its first error. -/
theorem aborts_at_first_error (i : Instr) : abortsAtFirstError i := by
  intro s as rest r landed hf ha hok hr hlen
  have hk : as.length < (program i).length := tableRequests_length i ▸ hlen
  have hm := List.getElem?_eq_getElem hk
  have hrows : ((program i).take as.length).length = as.length := List.length_take_of_le hk.le
  obtain ⟨t, ht, hrest⟩ := OkRows.exists_of_allOk (s := s.latch (encode i)) hok ha hrows.symm
  have hrun := execTimes_accept_okRows (sequenced_of_row hm) hf ht (List.take_prefix ..) 2
  rw [hrows, State.afterRows, if_neg hk.ne, 
    execTimes_row hm (awaitResponse_of_err hrest (Answer.resolve_oracle_err hr ..))] at hrun
  refine ⟨_, hrun, rfl, rfl, rfl, rfl, rfl, rfl, rfl, rfl, ?_, rfl, ?_⟩
  · simp [State.place, ht.issued, tableRequests_eq_map_program, List.take_add_one, hm]
  · cases landed <;> simp [ht.chip, tableRequests_eq_map_program, List.take_add_one, hm]

/-- R103, R106, R115: a sequenced command whose requests are all answered `ok` issues them in table order. -/
theorem command_of_allOk {i : Instr} {s : State} {as rest : List Answer} (hi : sequenced i = true) (hf : s.fsm = .idle)
    (ha : s.answers = as ++ rest) (hok : allOk as) (hlen : as.length = (tableRequests i).length) :
    ∃ t, execTimes i (2 * as.length + 1) s = .next t ∧ t.fsm = .done ∧ t.status = some .ok ∧ t.err = none ∧
      t.issued = s.issued ++ tableRequests i ∧ t.answers = rest := by
  rw [tableRequests_length] at hlen
  obtain ⟨t, ht, hrest⟩ := OkRows.exists_of_allOk (s := s.latch (encode i)) hok ha hlen
  have hrun := execTimes_command hi hf ht
  rw [← hlen] at hrun
  exact ⟨_, hrun, rfl, rfl, ht.err, tableRequests_eq_map_program i ▸ ht.issued, hrest⟩

/-- R118: an illegal word is refused at acceptance. -/
theorem step_of_illegal {s : State} {w : CmdWord} {port : List CmdWord} (hf : s.fsm = .idle) (hrst : rstHigh s = false)
    (hw : s.cmds = w :: port) (hillegal : legalWord w = false) :
    step s = .next (State.refuseIllegal w { s with cmds := port, rst := s.rst.tail }) := by
  obtain ⟨x, hx⟩ := (legalWord_eq_false_iff w).1 hillegal
  rw [step_of_rst_low hrst, handshake_of_idle (s := { s with rst := s.rst.tail }) hf]
  simp only [acceptNext, hw, hx]

/-- Settles O33: the table's lengths, and what each kind of command issues, whole or aborted. -/
theorem requestCounts : Obligations.RequestCounts := by
  refine ⟨⟨rfl, fun _ _ _ _ => rfl, fun _ _ _ _ => rfl, rfl, rfl⟩, fun i s as rest => command_of_allOk,
    fun i s t hi hf h => ?_, fun s t w port hf hrst hw hillegal h => ?_, fun i _ => aborts_at_first_error i⟩
  · rw [exec_codec_of_idle hi hf] at h
    cases h
    exact ⟨rfl, codecWrite_issued i _⟩
  · rw [step_of_illegal hf hrst hw hillegal] at h
    cases h
    exact ⟨rfl, rfl⟩

/-- R66, R103: a sequenced command answered by the reference chip ends with STATUS OK. -/
theorem execTimes_command_refChip {i : Instr} {s : State} {rest : List Answer} (hi : sequenced i = true)
    (hf : s.fsm = .idle) (ha : s.answers = List.replicate (program i).length .refChip ++ rest) :
    execTimes i (2 * (program i).length + 1) s = .next (((refRows (program i) (s.latch (encode i))).place .wait
      (BitVec.ofNat 3 ((program i).length - 1))).finish .ok) := by
  refine execTimes_command hi hf (OkRows.refChip (program_isChain i) (fun m hm hread => ?_) ha)
  obtain ⟨m', hm', hno⟩ := program_first hi
  rw [List.head?_eq_getElem?, hm', Option.some_inj] at hm
  simp [← hm, hno] at hread

/-- R110: the byte INIT reads back from the reference chip is the one it has written. -/
theorem init_refChip (u : State) :
    (refRows (program .init) (u.latch (encode .init))).res0 = some 0x00#8 ∧
    (refRows (program .init) (u.latch (encode .init))).chip.value 0x00#8 = 0x00#8 := by
  have hvalue : Chip.value ⟨Memory.write u.chip.regs 0 0x00#8, none⟩ 0x00#8 = 0x00#8 := by simp [Chip.value]
  exact ⟨congrArg (fun b => some (haltFlag b)) hvalue, hvalue⟩

/-- R30: the halt flag as the statement of INIT puts it. -/
theorem haltFlag_eq_ite (b : Byte) : haltFlag b = if 128 ≤ b.toNat then 0x01#8 else 0x00#8 := by
  revert b
  decide

/-- Settles O28: the four rows of INIT answered one after the other, its read back, and its abort. -/
theorem initRun : Obligations.InitRun := by
  refine ⟨fun s r0 r1 r2 r3 l0 l1 l2 l3 rest hf h0 h1 h2 h3 ha => ?_, fun s rest hf ha => ?_, aborts_at_first_error _⟩
  · have hrows : OkRows (program .init) (s.latch (encode .init)) _ :=
      .oracle ha h0 (.oracle rfl h1 (.oracle rfl h2 (.oracle rfl h3 (.nil _))))
    rw [← haltFlag_eq_ite]
    exact execTimes_command rfl hf hrows.with_issued
  · obtain ⟨hres, hvalue⟩ := init_refChip s
    exact ⟨_, execTimes_command_refChip (i := .init) rfl hf ha, rfl, rfl, hres, hvalue⟩

/-- Settles O29: the three writes of SETTIME answered one after the other, and its abort. -/
theorem settimeRun : Obligations.SettimeRun := by
  refine fun sec mi ho f => ⟨fun s r0 r1 r2 l0 l1 l2 rest hf h0 h1 h2 ha => ?_, aborts_at_first_error _⟩
  have hrows : OkRows (program (.settime sec mi ho f)) (s.latch (encode (.settime sec mi ho f))) _ :=
    .oracle ha h0 (.oracle rfl h1 (.oracle rfl h2 (.nil _)))
  rw [← encSec_eq_secondsByte, ← bin2bcd_eq_digitsByte, ← encHours_eq_hoursByte]
  exact execTimes_command rfl hf hrows.with_issued

/-- Settles O30: the four writes of SETDATE answered one after the other, and its abort. -/
theorem setdateRun : Obligations.SetdateRun := by
  refine fun d w mo y => ⟨fun s r0 r1 r2 r3 l0 l1 l2 l3 rest hf h0 h1 h2 h3 ha => ?_, aborts_at_first_error _⟩
  have hrows : OkRows (program (.setdate d w mo y)) (s.latch (encode (.setdate d w mo y))) _ :=
    .oracle ha h0 (.oracle rfl h1 (.oracle rfl h2 (.oracle rfl h3 (.nil _))))
  simp only [← bin2bcd_eq_digitsByte]
  exact execTimes_command rfl hf hrows.with_issued

/-- Settles O31: the six rows of GETTIME answered one after the other, by the oracle and by the reference chip, and its
abort. -/
theorem gettimeRun : Obligations.GettimeRun := by
  refine ⟨fun s r0 r1 r2 r3 r4 r5 l0 l1 l2 l3 l4 l5 rest hf h0 h1 h2 h3 h4 h5 ha => ?_, fun s rest hf ha => ?_,
    aborts_at_first_error _⟩
  · have hrows : OkRows (program .gettime) (s.latch (encode .gettime)) _ :=
      .oracle ha h0 (.oracle rfl h1 (.oracle rfl h2 (.oracle rfl h3 (.oracle rfl h4 (.oracle rfl h5 (.nil _))))))
    rw [← decSec_eq_secondsValue, ← bcd2bin_eq_digitsValue, ← decHours_eq_hoursValue]
    exact execTimes_command rfl hf hrows.with_issued
  · rw [← decSec_eq_secondsValue, ← bcd2bin_eq_digitsValue, ← decHours_eq_hoursValue]
    exact ⟨_, execTimes_command_refChip (i := .gettime) rfl hf ha, rfl, rfl, gettime_response s⟩

/-- Settles O32: the eight rows of GETDATE answered one after the other, by the oracle and by the reference chip, and
its abort. -/
theorem getdateRun : Obligations.GetdateRun := by
  refine ⟨fun s r0 r1 r2 r3 r4 r5 r6 r7 l0 l1 l2 l3 l4 l5 l6 l7 rest hf h0 h1 h2 h3 h4 h5 h6 h7 ha => ?_,
    fun s rest hf ha => ?_, aborts_at_first_error _⟩
  · have hrows : OkRows (program .getdate) (s.latch (encode .getdate)) _ :=
      .oracle ha h0 (.oracle rfl h1 (.oracle rfl h2 (.oracle rfl h3 (.oracle rfl h4 (.oracle rfl h5
        (.oracle rfl h6 (.oracle rfl h7 (.nil _))))))))
    simp only [← bcd2bin_eq_digitsValue]
    exact execTimes_command rfl hf hrows.with_issued
  · simp only [← bcd2bin_eq_digitsValue]
    exact ⟨_, execTimes_command_refChip (i := .getdate) rfl hf ha, rfl, rfl, getdate_response s⟩

end Machine

end Sys2Proof
end

section
/-! PROOFS. The statements about the error endings (60_exceptions.md): the transport's error, the illegal word, and the
clock-halt bit, which no command sets. The first two are the model's two endings read in the statements' words; the third
finds the writes of the seconds register in the table of R106. -/

namespace Sys2Proof

namespace Machine

/-- Settles O19: the error answer takes the abort, which writes what R123 says. -/
theorem errorResponseAborts : Obligations.ErrorResponseAborts :=
  fun _ _ _ _ _ _ hf hq ha hr => exec_of_wait_err hf hq hr ha

/-- Settles O21: the decoder rejects the word, and the refusal latches it and ends the command. -/
theorem illegalCommandRefused : Obligations.IllegalCommandRefused :=
  fun _ _ _ hf hrst hw hillegal => step_of_illegal hf hrst hw hillegal

/-! ### The clock-halt bit (R135) -/

/-- R25, R106: a request the block presents stands in the table of the command held. -/
theorem presentedRequest_mem_table {s : State} {q : Request} (h : presentedRequest s = some q) :
    ∃ i, decode s.cmd = .ok i ∧ q ∈ tableRequests i := by
  unfold presentedRequest at h
  split at h
  · obtain ⟨m, hm, rfl⟩ := Option.map_eq_some_iff.1 h
    obtain ⟨i, hd, hrow⟩ := exists_decode_of_currentMicro hm
    refine ⟨i, hd, ?_⟩
    rw [tableRequests_eq_map_program]
    exact List.mem_map_of_mem (List.mem_of_getElem? hrow)
  · cases h

/-- R106, R110, R111: the table writes the seconds register for INIT and for SETTIME only. -/
theorem seconds_write_of_mem_table {i : Instr} {d : DevAddr} {v : Byte} (h : .write d 0x00#8 v ∈ tableRequests i) :
    (i = .init ∧ v = 0x00#8) ∨ ∃ sec mi ho f, i = .settime sec mi ho f ∧ v = secondsByte sec := by
  cases i with
  | init =>
    obtain ⟨-, hv⟩ : d = 0x68#7 ∧ v = 0x00#8 := by simpa [tableRequests] using h
    exact .inl ⟨rfl, hv⟩
  | settime sec mi ho f =>
    obtain ⟨-, hv⟩ : d = 0x68#7 ∧ v = secondsByte sec := by simpa [tableRequests] using h
    exact .inr ⟨sec, mi, ho, f, rfl, hv⟩
  | bin2bcd | bcd2bin | enchours | dechours | encsec | decsec | setdate | gettime | getdate =>
    simp [tableRequests] at h

/-- Settles O42: the request issued is the one presented; the contract clears its bit 7, and the table names its command. -/
theorem oscillatorNeverHalted : Obligations.OscillatorNeverHalted := by
  intro s t d v h hwrite
  rcases step_issued_cases h with hiss | ⟨q, -, -, -, hq, hiss, hcon⟩
  · simp [hiss] at hwrite
  · obtain rfl : q = .write d 0x00#8 v := by simpa [hiss] using hwrite
    obtain ⟨-, -, hhalt⟩ := hcon
    obtain ⟨i, hd, hmem⟩ := presentedRequest_mem_table hq
    refine ⟨hhalt rfl, (seconds_write_of_mem_table hmem).imp ?_ ?_⟩
    · rintro ⟨rfl, hv⟩
      exact ⟨hd, hv⟩
    · rintro ⟨sec, mi, ho, f, rfl, hv⟩
      exact ⟨sec, mi, ho, f, hd, hv⟩

end Machine

end Sys2Proof
end

section
/-! PROOFS. The statements about reset (70_reset_and_hazards.md) and the end of every sequenced command. A reset is one
step, read field by field. A command whose requests are all answered has every row answered `ok`, or a first row that is
answered with an error; each of the two ends it. -/

namespace Sys2Proof

namespace Machine

/-! ### Reset (R137 to R139) -/

/-- Settles O50: the step is the reset, which leads to IDLE and clears every result; `rst` alone holds back `cmd_ready`. -/
theorem resetEntersIdle : Obligations.ResetEntersIdle := by
  intro s landed rest hrst
  refine ⟨by simp [cmdReady, rstHigh, hrst], _, step_of_rst_high hrst, rfl, rfl, rfl, rfl, rfl, rfl, rfl, rfl, rfl, rfl,
    rfl, fun hlow => ?_⟩
  simp [cmdReady, hlow]

/-- R138: outside WAIT no request is in flight, and a reset leaves the chip as it is. -/
theorem State.chipAfterReset_of_not_wait {s : State} (landed : Bool) (hf : s.fsm ≠ .wait) :
    s.chipAfterReset landed = s.chip :=
  (State.chipAfterReset_cases landed s).resolve_right fun ⟨_, hwait, _, _⟩ => hf hwait

/-- R138: a request in flight that did not reach the chip leaves it as it is. -/
theorem State.chipAfterReset_of_not_landed (s : State) : s.chipAfterReset false = s.chip := by
  unfold State.chipAfterReset
  split <;> rfl

/-- R138: a request in flight that reached the chip is applied to it. -/
theorem State.chipAfterReset_of_landed {s : State} {q : Request} (hf : s.fsm = .wait)
    (hq : currentRequest s.cmd s.stepIx = some q) : s.chipAfterReset true = s.chip.apply q := by
  simp [State.chipAfterReset, hf, hq]

/-- Settles O51: a reset keeps the ports and the records, and of the chip's three cases each is a lemma above. -/
theorem resetLeavesChip : Obligations.ResetLeavesChip := by
  intro s landed rest hrst
  refine ⟨_, step_of_rst_high hrst, rfl, rfl, rfl, rfl, fun hf => ?_, ?_, ?_⟩
  · exact State.chipAfterReset_of_not_wait (s := { s with rst := rest }) landed hf
  · rintro rfl
    exact State.chipAfterReset_of_not_landed { s with rst := rest }
  · rintro q hf hq rfl
    exact State.chipAfterReset_of_landed (s := { s with rst := rest }) hf hq

/-! ### Every sequenced command ends (R150) -/

/-- R64: the next answer to come is an error for the request of the row. -/
def Micro.FailsNext (m : Micro) (s : State) : Prop :=
  ∃ a rest e c, s.answers = a :: rest ∧ a.resolve m.request s.chip = some (.err e, c)

/-- R64, R66: rows with an answer each, whatever it is, are all answered `ok`, or the first rows are and the next one is
answered with an error. A pointer write comes before each READ, so the reference chip is never stuck. -/
theorem OkRows.exists_or_failsNext {rows : List Micro} {s : State}
    (hchain : rows.IsChain fun m m' => m'.request.isRead = true → ∃ a, m = .pointer a)
    (hptr : ∀ m, rows.head? = some m → m.request.isRead = true → s.chip.ptr.isSome = true)
    (hlen : rows.length ≤ s.answers.length) :
    (∃ t, OkRows rows s t) ∨ ∃ pre m t, pre ++ [m] <+: rows ∧ OkRows pre s t ∧ m.FailsNext t := by
  induction rows generalizing s with
  | nil => exact .inl ⟨s, .nil s⟩
  | cons m rows ih =>
    match ha : s.answers with
    | [] => simp [ha] at hlen
    | a :: rest =>
      obtain ⟨⟨r, c⟩, hr⟩ := Option.isSome_iff_exists.1 (a.resolve_isSome (hptr m rfl))
      cases r with
      | err e => exact .inr ⟨[], m, s, List.prefix_append [m] rows, .nil s, a, rest, e, c, ha, hr⟩
      | ok data =>
        obtain rfl := Answer.resolve_ok_chip hr
        have hnext : ∀ m', rows.head? = some m' → m'.request.isRead = true →
            (m.okRow data rest s).chip.ptr.isSome = true := by
          intro m' hm' hread
          obtain ⟨p, rfl⟩ := List.isChain_cons.1 hchain |>.1 m' hm' hread
          simp [Micro.okRow, Micro.request, Chip.apply]
        rcases ih hchain.tail hnext (by simpa [Micro.okRow, ha] using hlen) with ⟨t, ht⟩ | ⟨pre, m', t, hpre, ht, hfail⟩
        · exact .inl ⟨t, .cons ha hr ht⟩
        · exact .inr ⟨m :: pre, m', t, List.cons_prefix_cons.2 ⟨rfl, hpre⟩, .cons ha hr ht, hfail⟩

/-- R101, R150: the rows of a sequenced command with an answer each are all answered `ok`, or up to a first error. -/
theorem OkRows.exists_or_failsNext_of_sequenced {i : Instr} {s : State} (hi : sequenced i = true)
    (hlen : (program i).length ≤ s.answers.length) :
    (∃ t, OkRows (program i) s t) ∨ ∃ pre m t, pre ++ [m] <+: program i ∧ OkRows pre s t ∧ m.FailsNext t := by
  obtain ⟨m, hm, hno⟩ := program_first hi
  refine OkRows.exists_or_failsNext (program_isChain i) (fun m' hm' hread => ?_) hlen
  rw [List.head?_eq_getElem?, hm, Option.some_inj] at hm'
  simp [← hm', hno] at hread

/-- R103, R123: a sequenced command whose first rows are answered `ok` and the next one with an error is aborted. -/
theorem execTimes_command_fails {i : Instr} {pre: List Micro} {m : Micro} {s t : State} (hi : sequenced i = true)
    (hf : s.fsm = .idle) (hpre : pre ++ [m] <+: program i) (h : OkRows pre (s.latch (encode i)) t)
    (hfail : m.FailsNext t) :
    ∃ u, execTimes i (2 * pre.length + 3) s = .next u ∧ u.fsm = .done ∧ u.status = some .transportError ∧
      u.issued = s.issued ++ (pre ++ [m]).map Micro.request := by
  obtain ⟨a, rest, e, c, ha, hr⟩ := hfail
  have hm : (program i)[pre.length]? = some m := by
    obtain ⟨todo, htodo⟩ := hpre
    simp [← htodo]
  have hk : pre.length < (program i).length := (List.getElem?_eq_some_iff.1 hm).1
  have hrun := execTimes_accept_okRows hi hf h ((List.prefix_append pre [m]).trans hpre) 2
  rw [State.afterRows, if_neg hk.ne, execTimes_row hm (awaitResponse_of_err ha hr)] at hrun
  refine ⟨_, hrun, rfl, rfl, ?_⟩
  simp [State.place, h.issued]

/-- Settles O34: with every row answered `ok` the command ends after the last, and else it aborts at the first error; it has
at most eight rows. -/
theorem sequencedCommandTerminates : Obligations.SequencedCommandTerminates := by
  intro i s hi hf hlen
  have hrows := program_length_le i
  rcases OkRows.exists_or_failsNext_of_sequenced (s := s.latch (encode i)) hi (hrows.trans hlen) with
    ⟨t, ht⟩ | ⟨pre, m, t, hpre, ht, hfail⟩
  · refine ⟨_, _, ?_, execTimes_command hi hf ht, rfl, rfl, ?_⟩
    · omega
    · simpa [State.place, ht.issued] using hrows
  · obtain ⟨u, hrun, hdone, hstatus, hissued⟩ := execTimes_command_fails hi hf hpre ht hfail
    have hpreLen : pre.length + 1 ≤ 8 := by simpa using hpre.length_le.trans hrows
    refine ⟨_, u, ?_, hrun, hdone, by rw [hstatus]; rfl, ?_⟩
    · omega
    · simpa [hissued] using hpreLen

end Machine

end Sys2Proof
end
